-- ==== Sys2Proof/Word.lean ====
section
/-! DEFINITION. The word types the manual treats as bits: bytes of frames, records and the store,
readings of the millisecond clock (R119), and state numbers (R110). -/
namespace Sys2Proof

/-- A byte of a frame, of a bay port record or of the configuration store. -/
abbrev Byte := BitVec 8

/-- A reading of the unit's clock: a count of milliseconds modulo 2^32 (R119). -/
abbrev Time := BitVec 32

/-- A bulletin's state number: a count modulo 65 536 (R110). -/
abbrev StateNo := BitVec 16

end Sys2Proof
end

