-- ==== Sys2Proof/Syntax.lean ====
section
/-! DEFINITION. The commands of the unit: one constructor per row of spec/opcode_table.json. The table
gives no operands; each command carries the fields that the manual's formats (chapter 12) and the
rules of its owner give it (log 3). Numbers that the manual counts or names are Nat; bytes and state
numbers are bit vectors. -/
namespace Sys2Proof

/-- One raw line of the bay (chapter 2; connector groups X1 and X2). Inputs are numbered from 1 (R8). -/
inductive Line where
  | contactOpen (pair : Nat)
  | contactClosed (pair : Nat)
  | presence (input : Nat)
  | healthy (input : Nat)
  | binary (input : Nat)
  | selRemote
  | selLocal
  deriving DecidableEq, Repr

/-- What a filter timer belongs to: a local point's input, or the selector (R19, R23). -/
inductive Input where
  | point (id : Nat)
  | selector
  deriving DecidableEq, Repr

/-- The outcome of an attempt (R96). -/
inductive Attempt where
  | sent
  | collided
  | lost
  deriving DecidableEq, Repr

/-- A stored time of a past event that may lapse (R120). -/
inductive StoredTime where
  | completion (switch : Nat)
  | movement (zone : Nat)
  deriving DecidableEq, Repr

/-- One item of a bulletin's point list (section 12.2): bit 0 of the flags is the suspect flag. -/
structure Item where
  point : Nat
  value : Byte
  flags : Byte
  deriving DecidableEq, Repr

/-- One step of a PROGRAM request as sent: a point id and a target code (R181). -/
structure StepField where
  point : Nat
  target : Nat
  deriving DecidableEq, Repr

/-- A request record's type and fields (R181); the tag stands beside it. -/
inductive Request where
  | readStatus
  | restart
  | halt
  | writeConfig (offset : Nat) (data : List Byte)
  | operate (urgency point target : Nat)
  | program (urgency : Nat) (steps : List StepField)
  | cancel (handle : Nat)
  | check (point target : Nat)
  | readPoint (point : Nat)
  | readNode (node : Nat)
  | readClaims
  | readEvent
  | readCapture
  | unlockCapture
  | clearFaultSwitch (point : Nat)
  | clearFaultLink
  | unknown (type : Nat)
  deriving DecidableEq, Repr

/-- The commands: one constructor per row of spec/opcode_table.json, in the table's order. -/
inductive Instr where
  | powerOn
  | supplyFailure
  | loadingEnd
  | quietTimeExpiry
  | readStatus (tag : Byte)
  | restart (tag : Byte)
  | halt (tag : Byte)
  | writeConfig (tag : Byte) (offset : Nat) (data : List Byte)
  | configBlockStored
  | stopFrameOutcome (outcome : Attempt)
  | stopFrameSkip
  | operate (tag : Byte) (urgency point target : Nat)
  | program (tag : Byte) (urgency : Nat) (steps : List StepField)
  | cancel (tag : Byte) (handle : Nat)
  | check (tag : Byte) (point target : Nat)
  | readPoint (tag : Byte) (point : Nat)
  | readNode (tag : Byte) (node : Nat)
  | readClaims (tag : Byte)
  | readEvent (tag : Byte)
  | readCapture (tag : Byte)
  | unlockCapture (tag : Byte)
  | clearFaultSwitch (tag : Byte) (point : Nat)
  | clearFaultLink (tag : Byte)
  | unknownRequestType (tag : Byte) (type : Nat)
  | requestRecordDiscard (record : List Byte)
  | overrun (tag : Byte) (type : Nat)
  | recordGapTimeout (bytes : List Byte)
  | rawInputChange (line : Line) (made : Bool)
  | filterTimerExpiry (input : Input)
  | runTimeExpiry
  | stuckTimerExpiry (switch : Nat)
  | driveEndReport
  | claimDeadline
  | guardReleaseTime
  | guardDeadline
  | bulletin (sender revision : Nat) (stateNo : StateNo) (repeatNo : Byte) (holdMs : Nat) (items : List Item)
  | damagedFrame (bytes : List Byte)
  | peerExpiry (unit : Nat)
  | storedTimeLapse (which : StoredTime)
  | ask (sender revision zone urgency defer lifetime : Nat)
  | hold (sender revision zone urgency defer holdMs : Nat)
  | drop (sender revision zone : Nat)
  | yieldRequest (sender revision zone urgency : Nat)
  | secondAskTime (zone : Nat)
  | windowEnd (zone : Nat)
  | refreshTime (zone : Nat)
  | peerEntryExpiry (zone unit : Nat)
  | bulletinDue
  | mediumBusy
  | idleSpellComplete
  | echoMatched
  | echoMismatch
  | echoTimeout
  | probeTimerExpiry
  | mediumIdle
  deriving DecidableEq, Repr

end Sys2Proof
end

