-- ==== Sys2Proof/Config.lean ====
section
/-! DEFINITION. What an implementation fixes: the unit's fixed capacities and constants, as the manual
states them, and the free values, which it leaves open (opaque constants with no body). -/
namespace Sys2Proof.Config

/-- FREE VALUE (log 7): the microseconds a frame of so many bytes takes to send; the manual gives no
bit rate and writes it L (06, section 6.8). -/
opaque sendTimeUs : Nat → Nat

/-- FREE VALUE (log 6): the n-th choice the manual leaves open: whether a block being stored when the
supply fails ends with its new contents (R10). -/
opaque freeBit : Nat → Bool

/-- Bytes of the configuration store (01, section 1.4). -/
def storeBytes : Nat := 16384
/-- Bytes of a block of the store (R10). -/
def blockBytes : Nat := 64
/-- The greatest offset WRITE_CONFIG takes (R10). -/
def lastBlock : Nat := 16320
/-- Event records the event queue holds (R170). -/
def eventCapacity : Nat := 32
/-- Programs the request queue holds (R145). -/
def queueCapacity : Nat := 4
/-- Entries a peer claim list holds (R124). -/
def listCapacity : Nat := 8
/-- Unsuccessful attempts after which a frame is dropped (R97, R98). -/
def maxAttempts : Nat := 8
/-- The greatest defer count (R131). -/
def maxDefer : Nat := 15
/-- Idle medium the first attempt needs, in µs (R94). -/
def firstSpellUs : Nat := 10
/-- From the last byte sent to a LOST outcome, in µs (R96). -/
def echoTimeoutUs : Nat := 200
/-- From taking a stop frame in hand to skipping it, in µs (R106). -/
def skipUs : Nat := 5000
/-- The probe timer, in ms (R99, R103). -/
def probeMs : Nat := 1000
/-- Age at which a stored completion or movement time lapses, in ms (R120). -/
def lapseMs : Nat := 1073741824
/-- Unit numbers run from 1 to this (R2, R43). -/
def maxUnit : Nat := 48
/-- Zone numbers run from 1 to this (R5). -/
def maxZone : Nat := 24
/-- Items a bulletin may carry (R116, R180). -/
def maxItems : Nat := 24
/-- The default base interval B (R9), the publisher's interval before a model is installed (log 10). -/
def defaultBase : Nat := 4

end Sys2Proof.Config
end

