-- ==== Sys2Proof/Machine/Vocab.lean ====
section
/-! DEFINITION. The names the manual gives values, modes, reasons and causes (sections 3 and 12.5 of the
manual), each enumeration in the order section 12.5 codes it. -/
namespace Sys2Proof.Machine

inductive UnitMode where
  | loading | quiet | run | halted
  deriving DecidableEq, Repr

/-- Why the unit is HALTED; CONFIG_INVALID carries its check number (R12). -/
inductive HaltCause where
  | configCrc
  | configInvalid (check : Nat)
  | haltRequest
  deriving DecidableEq, Repr

inductive StartCause where
  | powerOn | restart
  deriving DecidableEq, Repr

inductive LinkMode where
  | active | muted
  deriving DecidableEq, Repr

/-- The selector state: LOCAL or REMOTE (R23). -/
inductive Selector where
  | atBay | remote
  deriving DecidableEq, Repr

inductive ProgState where
  | queued | claiming | guard | driving | finished
  deriving DecidableEq, Repr

inductive OwnStateName where
  | idle | asking | waiting | held
  deriving DecidableEq, Repr

inductive EntryKind where
  | ask | hold
  deriving DecidableEq, Repr

inductive PointKind where
  | breaker | disconnector | earthing | voltage | binary
  deriving DecidableEq, Repr

/-- Point values: OPEN, CLOSED, TRAVEL, BAD, ABSENT, PRESENT, LOW, HIGH. -/
inductive PointValue where
  | opened | closed | travel | bad | absent | present | low | high
  deriving DecidableEq, Repr

/-- A step's target, the direction of an operation and the coil of a drive: OPEN or CLOSED (R75, R28). -/
inductive Target where
  | opened | closed
  deriving DecidableEq, Repr

inductive Presence where
  | never | held | missing
  deriving DecidableEq, Repr

inductive Quality where
  | good | never | stale | withdrawn | missing
  deriving DecidableEq, Repr

inductive PeerStatus where
  | never | good | stale | withdrawn
  deriving DecidableEq, Repr

inductive Fact where
  | no | maybe | yes
  deriving DecidableEq, Repr

inductive Colour where
  | dead | live | earthed | unsure | clash
  deriving DecidableEq, Repr

inductive Qualifier where
  | certain | unsure
  deriving DecidableEq, Repr

inductive EndKind where
  | done | refused | cancelled | aborted | failed
  deriving DecidableEq, Repr

inductive Reason where
  | switchSuspect | switchMoving | extraCondition | notIsolated | nodeNotDead | clashRisk
  | claimTimeout | localTakeover | linkMuted | claimClash
  | travelTimeout | wrongEnd | badPosition | guardTimeout
  deriving DecidableEq, Repr

inductive FaultKind where
  | travelTimeout | wrongEnd | badPosition | stuckIntermediate | claimClash
  | linkContention | echoLoss | duplicateUnit
  deriving DecidableEq, Repr

inductive RecoveryMode where
  | auto | onClear
  deriving DecidableEq, Repr

inductive ReplyStatus where
  | ok | badRequest | notRunning | notHalted | busy | selectorLocal | linkDown | queueFull
  | unknownHandle | noSuchPoint | noSuchNode | notAtEnd | empty | overrun
  deriving DecidableEq, Repr

/-- Stop causes a program in DRIVING may carry (R147, R154). -/
inductive StopCause where
  | cancel | localTakeover | linkMuted | claimClash
  deriving DecidableEq, Repr

/-- How a step completed (R164). -/
inductive StepOutcome where
  | driven | already
  deriving DecidableEq, Repr

/-- Why zones were given back (R136). -/
inductive YieldCause where
  | yieldRequest | splitClaim
  deriving DecidableEq, Repr

/-- What an orderly stop is made for (R17, R106). -/
inductive StopReason where
  | restart | halt
  deriving DecidableEq, Repr

/-- The readings of a colouring (R63). -/
inductive Reading where
  | plain | closedFavourable | openFavourable
  deriving DecidableEq, Repr

/-- Classes of a switch in a colouring: CC, CO, UN (R60). -/
inductive SwitchClass where
  | cc | co | un
  deriving DecidableEq, Repr

/-- Classes of a voltage point in a colouring: VP, VA, VU (R61). -/
inductive VoltageClass where
  | vp | va | vu
  deriving DecidableEq, Repr

end Sys2Proof.Machine
end

