-- ==== Sys2Proof/Machine/State.lean ====
section
/-! DEFINITION. The unit's state as plain data: what each of its ten blocks owns (00_scope.md 2.1), the
start values, and the reasons a step could stop. -/
namespace Sys2Proof.Machine

/-! ### The yard model (chapter 1) -/

/-- A point of the model (R2 to R4): an earthing switch or voltage point stands on `nodeA`. -/
structure PointDef where
  id : Nat
  kind : PointKind
  owner : Nat
  nodeA : Nat
  nodeB : Nat
  deriving DecidableEq, Repr

/-- An extra condition: a point and the value it must show (R7). -/
structure Condition where
  point : Nat
  value : PointValue
  deriving DecidableEq, Repr

/-- A local point's settings (R7, R8); coil and times are 0 for a voltage or binary point. -/
structure LocalDef where
  point : Nat
  input : Nat
  coil : Nat
  runTime : Nat
  recovery : Nat
  closeConditions : List Condition
  openConditions : List Condition
  deriving DecidableEq, Repr

/-- A zone of the model (R5). -/
structure ZoneDef where
  number : Nat
  nodes : List Nat
  deriving DecidableEq, Repr

/-- The timing parameters and the recovery mode (R9); patiences are in seconds, the rest in ms. -/
structure Params where
  filterTime : Nat
  base : Nat
  heartbeat : Nat
  margin : Nat
  window : Nat
  refresh : Nat
  claimPatience : Nat
  guardPatience : Nat
  settle : Nat
  recovery : RecoveryMode
  deriving DecidableEq, Repr

/-- The model in use (chapter 1): points by ascending id, zones by ascending number. -/
structure YardModel where
  unit : Nat
  revision : Nat
  highNode : Nat
  points : List PointDef
  locals : List LocalDef
  zones : List ZoneDef
  params : Params
  deriving DecidableEq, Repr

/-- The defaults of R9. -/
def Params.default : Params :=
  { filterTime := 20, base := Config.defaultBase, heartbeat := 2000, margin := 50, window := 60, refresh := 500,
    claimPatience := 10, guardPatience := 30, settle := 400, recovery := .auto }

/-- The model before loading has installed one: no points, no zones (DESIGN CHOICE, log 10; unsafe). -/
def YardModel.blank : YardModel :=
  { unit := 0, revision := 0, highNode := 0, points := [], locals := [], zones := [], params := .default }

/-! ### Start-up control -/

/-- A block of the store being written while its WRITE_CONFIG is in hand (R10). -/
structure BlockWrite where
  offset : Nat
  data : List Byte
  deriving DecidableEq, Repr

/-- Start-up control (00_scope.md 2.1; R10 to R18). The store lists the bytes that differ from 0xFF. -/
structure StartControl where
  mode : UnitMode
  haltCause : Option HaltCause
  startCause : StartCause
  quietEnd : Time
  model : YardModel
  stopping : Option StopReason
  blockWrite : Option BlockWrite
  store : List Host.Cell
  deriving DecidableEq, Repr

/-! ### Bay I/O block -/

/-- The two contacts of a double-point pair (R20). -/
structure ContactPair where
  opened : Bool
  closed : Bool
  deriving DecidableEq, Repr

/-- The two lines of a voltage-indicator input (R21). -/
structure VoltageLines where
  presence : Bool
  healthy : Bool
  deriving DecidableEq, Repr

/-- The raw lines of the bay (R8, R20 to R23), inputs from 1 at position 0. -/
structure Lines where
  contacts : Vector ContactPair 24
  voltages : Vector VoltageLines 4
  binaries : Vector Bool 8
  selRemote : Bool
  selLocal : Bool
  deriving DecidableEq, Repr

/-- A pending reading and the clock reading at which it appeared (R19). -/
structure PendingReading where
  reading : PointValue
  since : Time
  deriving DecidableEq, Repr

/-- What the Bay I/O block holds for a local point (chapter 2): the last three fields are a switch's. -/
structure LocalPoint where
  id : Nat
  value : Option PointValue
  pending : Option PendingReading
  suspect : Bool
  completion : Option Time
  stuck : Option Time
  deriving DecidableEq, Repr

/-- The selector's filter (R19, R23, R24). -/
structure SelectorFilter where
  value : Option Selector
  pending : Option (Selector × Time)
  deriving DecidableEq, Repr

/-- The drive record (R28). -/
structure DriveRecord where
  switch : Nat
  direction : Target
  start : Time
  expiry : Time
  leftStart : Bool
  handle : Nat
  step : Nat
  deriving DecidableEq, Repr

/-- The end of a drive as reported to the sequencer: completion, or a failure (R30, R34). -/
inductive DriveReport where
  | completed
  | failed (kind : FaultKind)
  deriving DecidableEq, Repr

/-- The Bay I/O block (chapter 2). -/
structure BayIO where
  lines : Lines
  points : List LocalPoint
  selector : SelectorFilter
  drive : Option DriveRecord
  report : Option DriveReport
  deriving DecidableEq, Repr

/-! ### Position image -/

/-- An entry of the point table (R40). -/
structure PointEntry where
  id : Nat
  kind : PointKind
  owner : Nat
  value : Option PointValue
  suspect : Bool
  presence : Presence
  deriving DecidableEq, Repr

/-- A record of the peer table (R43); its expiry is armed while the status is GOOD (R51). -/
structure PeerRecord where
  unit : Nat
  status : PeerStatus
  lastState : StateNo
  lastRepeat : Byte
  expiry : Time
  mismatch : Bool
  deriving DecidableEq, Repr

/-- A zone's movement time, or unset (R53). -/
structure ZoneMove where
  zone : Nat
  time : Option Time
  deriving DecidableEq, Repr

/-- The position image (chapter 3). -/
structure Image where
  entries : List PointEntry
  peers : List PeerRecord
  moves : List ZoneMove
  deriving DecidableEq, Repr

/-! ### Claim controller -/

/-- The unit's own claim state for a zone, with the times that belong to it (chapter 8); the second-ask
time is forgotten once the second ASK is offered (R128). -/
inductive OwnState where
  | idle
  | asking (secondAsk : Option Time) (windowEnd : Time)
  | waiting
  | held (refresh : Time)
  deriving DecidableEq, Repr

/-- An entry of a peer claim list (R124). -/
structure PeerClaim where
  unit : Nat
  kind : EntryKind
  urgency : Nat
  defer : Nat
  expiry : Time
  deriving DecidableEq, Repr

/-- What the claim controller holds for a zone of the model. -/
structure ZoneClaim where
  zone : Nat
  own : OwnState
  peers : List PeerClaim
  deriving DecidableEq, Repr

/-- The claim controller (chapter 8). The job is the list of the claim order (R127). -/
structure Claims where
  zones : List ZoneClaim
  job : Option (List Nat)
  deriving DecidableEq, Repr

/-! ### Interlock results and the program sequencer -/

/-- A refusal of an evaluation (R76). -/
structure RefusalRecord where
  reason : Reason
  condition : Nat
  point : Nat
  node : Nat
  qualifier : Qualifier
  deriving DecidableEq, Repr

/-- The result record of an evaluation (R76). -/
inductive Verdict where
  | permit (atTarget : Bool)
  | refuse (r : RefusalRecord)
  deriving DecidableEq, Repr

/-- A program's end status with its reason, step index and evaluator detail (R147, R162). -/
structure EndStatus where
  kind : EndKind
  reason : Option Reason
  step : Nat
  qualifier : Option Qualifier
  condition : Nat
  point : Nat
  node : Nat
  deriving DecidableEq, Repr

/-- A step of a program (R147). -/
structure Step where
  switch : Nat
  target : Target
  deriving DecidableEq, Repr

/-- A program's state (R147); GUARD holds the release time and the guard deadline (R150). -/
inductive Phase where
  | queued
  | claiming
  | guard (release deadline : Time)
  | driving
  | finished
  deriving DecidableEq, Repr

/-- The zone and the unit of a yield request (R135); a set pending-yield flag keeps those of the request
that set it (log 17). -/
structure YieldFrom where
  zone : Nat
  unit : Nat
  deriving DecidableEq, Repr

/-- A program record (R147). -/
structure Program where
  handle : Nat
  urgency : Nat
  steps : List Step
  stepIndex : Nat
  phase : Phase
  zones : List Nat
  defer : Nat
  claimStart : Option Time
  pendingStop : Option StopCause
  pendingYield : Option YieldFrom
  clashOffered : Bool
  ending : Option EndStatus
  deriving DecidableEq, Repr

/-- The program sequencer (chapter 9). -/
structure Sequencer where
  queue : List Program
  active : Option Program
  nextHandle : Nat
  deriving DecidableEq, Repr

/-! ### Publisher and yard link controller -/

/-- The schedule stage (section 7.1): OFFERED with the awaited bulletin, DUE with the next due time. -/
inductive Schedule where
  | stopped
  | offered (stateNo : StateNo) (repeatNo : Byte)
  | due (time : Time)
  deriving DecidableEq, Repr

/-- The publisher (chapter 7). -/
structure Publisher where
  stateNo : Option StateNo
  repeatNo : Byte
  interval : Nat
  stage : Schedule
  deriving DecidableEq, Repr

/-- The body of a yard-link frame (section 12.2). -/
inductive FrameBody where
  | bulletin (stateNo : StateNo) (repeatNo : Byte) (holdMs : Nat) (items : List Item)
  | ask (zone urgency defer lifetime : Nat)
  | hold (zone urgency defer holdMs : Nat)
  | drop (zone : Nat)
  | yieldRequest (zone urgency : Nat)
  deriving DecidableEq, Repr

/-- A yard-link frame (section 12.2). -/
structure Frame where
  sender : Nat
  revision : Nat
  body : FrameBody
  deriving DecidableEq, Repr

/-- The frame in hand (R93) and the microsecond at which it was taken (R106). -/
structure InHand where
  frame : Frame
  count : Nat
  allLost : Bool
  takenAt : Nat
  deriving DecidableEq, Repr

/-- The transmitter stage (R94 to R97): DEFERRING counts its spell of idle medium from a microsecond, or
not while the medium is busy; SENDING and ECHO_WAIT know when the last byte goes or went. -/
inductive TxStage where
  | idle
  | deferring (since : Option Nat)
  | sending (lastByte : Nat)
  | echoWait (lastByte : Nat)
  deriving DecidableEq, Repr

/-- The yard link controller (chapter 6) and the medium as its receiver sees it. -/
structure Link where
  txList : List Frame
  inHand : Option InHand
  stage : TxStage
  mode : LinkMode
  dup : Bool
  probeTimer : Option Time
  mediumBusy : Bool
  rxEcho : Bool
  deriving DecidableEq, Repr

/-! ### Bay port -/

/-- An event's kind with its subject and detail (R170, section 12.4). -/
inductive EventBody where
  | start (cause : StartCause)
  | stepComplete (handle step switch : Nat) (outcome : StepOutcome)
  | programEnd (handle : Nat) (status : EndStatus)
  | uncommandedChange (switch : Nat) (old new : PointValue)
  | switchSuspect (switch : Nat)
  | suspectCleared (switch : Nat)
  | peerStale (unit : Nat)
  | peerGood (unit : Nat)
  | peerWithdrawn (unit : Nat)
  | revisionMismatch (unit revision : Nat)
  | claimYielded (zone : Nat) (cause : YieldCause) (unit handle : Nat)
  | fault (subject : Nat) (kind : FaultKind)
  | linkMuted (unit : Nat) (kind : FaultKind)
  | linkRestored (unit : Nat)
  | selectorChanged (state : Selector)
  deriving DecidableEq, Repr

/-- An event record (R170). -/
structure Event where
  time : Time
  body : EventBody
  deriving DecidableEq, Repr

/-- The fault capture record (R173); absent fields are none or 0. -/
structure Capture where
  kind : FaultKind
  time : Time
  subject : Nat
  handle : Nat
  step : Nat
  stepState : Option ProgState
  value : Option PointValue
  raw : Option ContactPair
  zones : List Nat
  deriving DecidableEq, Repr

/-- READ_STATUS's items (R169). -/
structure StatusReply where
  mode : UnitMode
  haltCause : Option HaltCause
  startCause : StartCause
  linkMode : LinkMode
  dup : Bool
  selector : Selector
  active : Option (Nat × ProgState)
  queueLength : Nat
  events : Nat
  lost : Bool
  captureLocked : Bool
  deriving DecidableEq, Repr

/-- READ_POINT's items (R54); those that do not apply are none or 0. -/
structure PointReply where
  id : Nat
  kind : PointKind
  owner : Nat
  value : Option PointValue
  suspect : Bool
  presence : Presence
  quality : Quality
  raw : Option ContactPair
  ownerStatus : Option PeerStatus
  lastState : StateNo
  lastRepeat : Byte
  toExpiry : Nat
  deriving DecidableEq, Repr

/-- A peer entry as READ_CLAIMS shows it (R144). -/
structure ClaimEntryReply where
  unit : Nat
  kind : EntryKind
  urgency : Nat
  defer : Nat
  toExpiry : Nat
  deriving DecidableEq, Repr

/-- A zone block of READ_CLAIMS (R144). -/
structure ZoneReply where
  zone : Nat
  own : OwnStateName
  entries : List ClaimEntryReply
  deriving DecidableEq, Repr

/-- The fields of a reply (R181's second table). -/
inductive ReplyBody where
  | none
  | handle (h : Nat)
  | status (r : StatusReply)
  | verdict (v : Verdict)
  | point (p : PointReply)
  | node (n : Nat) (live earthed : Fact) (colour : Colour)
  | claims (active : Option (Nat × Nat × Nat)) (zones : List ZoneReply)
  | event (e : Event)
  | capture (c : Capture)
  deriving DecidableEq, Repr

/-- A reply record (section 12.3): the request's type and tag, the status, the fields. -/
structure Reply where
  type : Nat
  tag : Byte
  status : ReplyStatus
  body : ReplyBody
  deriving DecidableEq, Repr

/-- A request with its tag (R166). -/
structure Tagged where
  tag : Byte
  request : Request
  deriving DecidableEq, Repr

/-- The bay port (chapter 10). `replies` is the model's own: the reply records sent, oldest first (log 18). -/
structure Port where
  inHand : Option Tagged
  waiting : Option Tagged
  events : List Event
  lost : Bool
  capture : Option Capture
  replies : List Reply
  deriving DecidableEq, Repr

/-! ### The unit -/

/-- The whole state: one field a block (00_scope.md 2.1), the count of microseconds behind the clock
(R119, log 1), whether there is supply (R15), the count of free values drawn (log 6) and the queue of
waiting commands. -/
structure State where
  micros : Nat
  supplied : Bool
  ctl : StartControl
  bay : BayIO
  image : Image
  claims : Claims
  seq : Sequencer
  pub : Publisher
  link : Link
  port : Port
  freeCount : Nat
  pending : List Instr
  deriving DecidableEq, Repr

/-- Why a command stops the machine: there is no such reason. Every command has an effect, be it none, in
every mode (INVENTORY.md, Faults), so the type has no constructor. Safe. -/
inductive Fault where
  deriving DecidableEq, Repr

/-- Why a command is refused. -/
inductive Refusal where
  /-- Raised by exec's arm of a command that has no meaning yet; no arm of this model raises it. Safe. -/
  | notModelled (mnemonic : String)
  deriving DecidableEq, Repr

/-! ### Start values -/

/-- The lines before any has changed: not made (DESIGN CHOICE, log 8; unsafe). -/
def Lines.unmade : Lines :=
  { contacts := Vector.replicate 24 ⟨false, false⟩, voltages := Vector.replicate 4 ⟨false, false⟩,
    binaries := Vector.replicate 8 false, selRemote := false, selLocal := false }

/-- The Bay I/O block after a start (R38); the lines belong to the bay and stay as they are. -/
def BayIO.start (lines : Lines) : BayIO :=
  { lines := lines, points := [], selector := ⟨none, none⟩, drive := none, report := none }

/-- A peer record after a start (R56); no expiry is armed, the 0 is the model's (log 10). -/
def PeerRecord.start (unit : Nat) : PeerRecord :=
  { unit := unit, status := .never, lastState := 0, lastRepeat := 0, expiry := 0, mismatch := false }

/-- The position image after a start (R56); its table is rebuilt when loading installs a model. -/
def Image.start : Image :=
  { entries := [], peers := (List.range' 1 Config.maxUnit).map PeerRecord.start, moves := [] }

/-- The claim controller after a start (R143). -/
def Claims.start : Claims := { zones := [], job := none }

/-- The sequencer after a start (R165). -/
def Sequencer.start : Sequencer := { queue := [], active := none, nextHandle := 1 }

/-- The publisher after a start (R108); B is taken when loading installs a model (log 10). -/
def Publisher.start : Publisher :=
  { stateNo := none, repeatNo := 0, interval := Config.defaultBase, stage := .stopped }

/-- The yard link controller after a start (R107); the medium is as the receiver sees it. -/
def Link.start (busy : Bool) : Link :=
  { txList := [], inHand := none, stage := .idle, mode := .active, dup := false, probeTimer := none,
    mediumBusy := busy, rxEcho := false }

/-- A start's single event (R13, R177). -/
def startEvent (time : Time) (cause : StartCause) : Event := { time := time, body := .start cause }

/-- The machine right after reset (log 9): a new unit, its store blank, right after its first power-on
start, in LOADING (R13, R38, R56, R107, R108, R143, R165, R177). -/
def State.reset : State :=
  { micros := 0
    supplied := true
    ctl := { mode := .loading, haltCause := none, startCause := .powerOn, quietEnd := 0, model := .blank,
             stopping := none, blockWrite := none, store := [] }
    bay := .start .unmade
    image := .start
    claims := .start
    seq := .start
    pub := .start
    link := .start false
    port := { inHand := none, waiting := none, events := [startEvent 0 .powerOn], lost := false,
              capture := none, replies := [] }
    freeCount := 0
    pending := [] }

end Sys2Proof.Machine
end

