-- ==== Sys2Proof/Machine/Ops.lean ====
section
/-! DEFINITION. The shared operations: one update per block of State, the clock's arithmetic (R119), keyed
tables, the configuration store, events (R170) and the fault capture (R173). -/
namespace Sys2Proof.Machine

/-! ### One update per block -/

def State.setMicros (s : State) (x : Nat) : State := { s with micros := x }
def State.setSupplied (s : State) (x : Bool) : State := { s with supplied := x }
def State.setCtl (s : State) (x : StartControl) : State := { s with ctl := x }
def State.setBay (s : State) (x : BayIO) : State := { s with bay := x }
def State.setImage (s : State) (x : Image) : State := { s with image := x }
def State.setClaims (s : State) (x : Claims) : State := { s with claims := x }
def State.setSeq (s : State) (x : Sequencer) : State := { s with seq := x }
def State.setPub (s : State) (x : Publisher) : State := { s with pub := x }
def State.setLink (s : State) (x : Link) : State := { s with link := x }
def State.setPort (s : State) (x : Port) : State := { s with port := x }
def State.setFreeCount (s : State) (x : Nat) : State := { s with freeCount := x }
def State.setPending (s : State) (x : List Instr) : State := { s with pending := x }

/-! ### The clock (R119) -/

/-- The clock's reading: milliseconds since the power-on start, modulo 2^32 (R119, log 1). -/
def State.now (s : State) : Time := BitVec.ofNat 32 (s.micros / 1000)

/-- `t1` is at or after `t2` (R119). -/
def atOrAfter (t1 t2 : Time) : Bool := decide ((t1 - t2).toNat < 2147483648)

/-- The clock has reached a deadline (R119). -/
def State.reached (s : State) (deadline : Time) : Bool := atOrAfter s.now deadline

/-- A reading plus a duration in ms, modulo 2^32 (R119). -/
def after (t : Time) (ms : Nat) : Time := t + BitVec.ofNat 32 ms

/-- Milliseconds from now to a time not yet reached, else 0 (R54, R144). -/
def State.msTo (s : State) (t : Time) : Nat := if s.reached t then 0 else (t - s.now).toNat

/-- The later of two times (R119); R150's latest. -/
def laterOf (t1 t2 : Time) : Time := if atOrAfter t1 t2 then t1 else t2

/-! ### Keyed tables -/

/-- The table with every row that matches changed; rows keep their places. -/
def modifyWhere {α : Type} (p : α → Bool) (f : α → α) (l : List α) : List α :=
  l.map fun a => if p a then f a else a

/-! ### The configuration store (section 1.4, R10) -/

/-- What an unlisted byte of the store reads as: 0xFF, as the store is shipped (section 1.4). -/
def blankByte : Byte := 0xFF

/-- One byte of the store. -/
def storeRead (m : List Host.Cell) (a : Nat) : Byte :=
  match m.find? (fun c => c.1 == a) with
  | some c => c.2
  | none => blankByte

/-- One byte written, keeping the canonical form: writing what an unlisted byte reads as removes the entry. -/
def storeWrite : List Host.Cell → Nat → Byte → List Host.Cell
  | [], a, b => if b = blankByte then [] else [(a, b)]
  | c :: rest, a, b =>
    if c.1 < a then c :: storeWrite rest a b
    else if c.1 = a then (if b = blankByte then rest else (a, b) :: rest)
    else if b = blankByte then c :: rest else (a, b) :: c :: rest

/-- Consecutive bytes written from an address on. -/
def storeWriteBytes : List Host.Cell → Nat → List Byte → List Host.Cell
  | m, _, [] => m
  | m, a, b :: bs => storeWriteBytes (storeWrite m a b) (a + 1) bs

/-- The bytes of the store from an address on. -/
def storeBytes (m : List Host.Cell) (a : Nat) : Nat → List Byte
  | 0 => []
  | n + 1 => storeRead m a :: storeBytes m (a + 1) n

/-- The canonical form of the store: addresses strictly rising and inside it, no entry that an unlisted
byte would read as. -/
def storeWf (m : List Host.Cell) : Bool :=
  decide (m.Pairwise fun c d => c.1 < d.1) && m.all fun c => decide (c.1 < Config.storeBytes) && decide (c.2 ≠ blankByte)

/-- An offset that WRITE_CONFIG takes (R10). -/
def validBlock (offset : Nat) : Bool := offset % Config.blockBytes == 0 && decide (offset ≤ Config.lastBlock)

/-! ### Modes -/

/-- The unit has supply and is in QUIET or RUN: the modes in which its blocks work (R14, R15, R18). -/
def State.working (s : State) : Bool := s.supplied && (s.ctl.mode == .quiet || s.ctl.mode == .run)

/-- Working, and no orderly stop has begun: received frames and claim timers are taken (R106, log 12). -/
def State.receiving (s : State) : Bool := s.working && s.ctl.stopping.isNone

/-- In RUN with no orderly stop begun: the unit's full work (R15, log 12). -/
def State.running (s : State) : Bool := s.supplied && s.ctl.mode == .run && s.ctl.stopping.isNone

/-! ### Lookups -/

def State.params (s : State) : Params := s.ctl.model.params
def State.unit (s : State) : Nat := s.ctl.model.unit

def YardModel.point? (m : YardModel) (id : Nat) : Option PointDef := m.points.find? (fun p => p.id == id)
def YardModel.local? (m : YardModel) (id : Nat) : Option LocalDef := m.locals.find? (fun p => p.point == id)

/-- A switch kind (R2). -/
def PointKind.isSwitch : PointKind → Bool
  | .breaker | .disconnector | .earthing => true
  | .voltage | .binary => false

/-- A point of the model that is a switch. -/
def YardModel.isSwitch (m : YardModel) (id : Nat) : Bool :=
  match m.point? id with
  | some p => p.kind.isSwitch
  | none => false

/-- A local switch of the model (R2). -/
def YardModel.isLocalSwitch (m : YardModel) (id : Nat) : Bool :=
  match m.point? id with
  | some p => p.kind.isSwitch && p.owner == m.unit
  | none => false

/-- The zones a point requires: every zone of the model that holds an end node of the switch, ascending
(R6). An earthing switch's second node is EARTH, which is in no zone. -/
def YardModel.required (m : YardModel) (id : Nat) : List Nat :=
  match m.point? id with
  | some p =>
    if p.kind.isSwitch then
      (m.zones.filter fun z => z.nodes.contains p.nodeA || (p.kind != .earthing && z.nodes.contains p.nodeB)).map (·.number)
    else []
  | none => []

/-- The union of the zones several switches require, ascending, none twice (R6). -/
def YardModel.requiredUnion (m : YardModel) (ids : List Nat) : List Nat :=
  (m.zones.map (·.number)).filter fun z => ids.any fun id => (m.required id).contains z

def State.localPoint? (s : State) (id : Nat) : Option LocalPoint := s.bay.points.find? (fun p => p.id == id)
def State.entry? (s : State) (id : Nat) : Option PointEntry := s.image.entries.find? (fun e => e.id == id)
def State.peer? (s : State) (unit : Nat) : Option PeerRecord := s.image.peers.find? (fun p => p.unit == unit)
def State.zone? (s : State) (z : Nat) : Option ZoneClaim := s.claims.zones.find? (fun c => c.zone == z)
def State.move? (s : State) (z : Nat) : Option Time :=
  match s.image.moves.find? (fun m => m.zone == z) with
  | some m => m.time
  | none => none

/-- The unit's own claim state for a zone; IDLE for a zone the model does not hold. -/
def State.own (s : State) (z : Nat) : OwnState :=
  match s.zone? z with
  | some c => c.own
  | none => .idle

/-- HELD, in any refresh time. -/
def OwnState.isHeld : OwnState → Bool
  | .held _ => true
  | _ => false

/-- The zones whose own state is HELD, ascending (R17, R173). -/
def State.heldZones (s : State) : List Nat := (s.claims.zones.filter fun c => c.own.isHeld).map (·.zone)

def Phase.name : Phase → ProgState
  | .queued => .queued
  | .claiming => .claiming
  | .guard _ _ => .guard
  | .driving => .driving
  | .finished => .finished

def State.mapPoint (s : State) (id : Nat) (f : LocalPoint → LocalPoint) : State :=
  s.setBay { s.bay with points := modifyWhere (fun p => p.id == id) f s.bay.points }

def State.mapEntry (s : State) (id : Nat) (f : PointEntry → PointEntry) : State :=
  s.setImage { s.image with entries := modifyWhere (fun e => e.id == id) f s.image.entries }

def State.mapPeer (s : State) (unit : Nat) (f : PeerRecord → PeerRecord) : State :=
  s.setImage { s.image with peers := modifyWhere (fun p => p.unit == unit) f s.image.peers }

def State.mapZone (s : State) (z : Nat) (f : ZoneClaim → ZoneClaim) : State :=
  s.setClaims { s.claims with zones := modifyWhere (fun c => c.zone == z) f s.claims.zones }

def State.setOwn (s : State) (z : Nat) (st : OwnState) : State := s.mapZone z fun c => { c with own := st }

def State.mapActive (s : State) (f : Program → Program) : State :=
  s.setSeq { s.seq with active := s.seq.active.map f }

/-! ### Events and the capture -/

/-- An event joins the tail of the queue, or is discarded and sets the events-lost flag (R170). -/
def State.event (s : State) (b : EventBody) : State :=
  if s.port.events.length < Config.eventCapacity then
    s.setPort { s.port with events := s.port.events ++ [{ time := s.now, body := b }] }
  else s.setPort { s.port with lost := true }

/-- A fault offered to the capture: taken if the capture is empty, which locks it (R173). -/
def State.offerCapture (s : State) (c : Capture) : State :=
  match s.port.capture with
  | none => s.setPort { s.port with capture := some c }
  | some _ => s

/-- A block of the store stored whole (R10). -/
def State.storeBlock (s : State) (w : BlockWrite) : State :=
  s.setCtl { s.ctl with store := storeWriteBytes s.ctl.store w.offset w.data, blockWrite := none }

/-- What becomes of a block being stored when the supply fails: all of its new contents or all of its old,
a free choice (R10, log 6). -/
def State.tearBlock (s : State) : State :=
  match s.ctl.blockWrite with
  | none => s
  | some w =>
    let s1 := s.setFreeCount (s.freeCount + 1)
    if Config.freeBit s.freeCount then s1.storeBlock w else s1.setCtl { s1.ctl with blockWrite := none }

end Sys2Proof.Machine
end

