-- ==== Sys2Proof/Machine/Operands.lean ====
section
/-! DEFINITION. What the fields of commands stand for: target codes (section 12.5), the bounds and clamps
on received lifetimes (R52, R123), and the readings the bay's lines give (R20 to R23). -/
namespace Sys2Proof.Machine

/-- A target code: 1 OPEN, 2 CLOSED, anything else no target (R181, section 12.5). -/
def targetOf : Nat → Option Target
  | 1 => some .opened
  | 2 => some .closed
  | _ => none

/-- The end a target names. -/
def Target.value : Target → PointValue
  | .opened => .opened
  | .closed => .closed

/-- The end opposite a target: a drive's start end (R28). -/
def Target.startEnd : Target → PointValue
  | .opened => .closed
  | .closed => .opened

/-- The lesser and greater bound applied to a received duration. -/
def clamp (lo hi x : Nat) : Nat := if x < lo then lo else if hi < x then hi else x

/-- A bulletin's hold time other than 0 as taken (R52). -/
def clampHold (x : Nat) : Nat := clamp 10 30000 x

/-- An ask lifetime as taken (R123). -/
def clampAsk (x : Nat) : Nat := clamp 40 1000 x

/-- A claim hold time as taken (R123). -/
def clampClaimHold (x : Nat) : Nat := clamp 600 6000 x

/-- Values a point's kind may take (R40). -/
def PointKind.admits : PointKind → PointValue → Bool
  | .breaker, v | .disconnector, v | .earthing, v => v == .opened || v == .closed || v == .travel || v == .bad
  | .voltage, v => v == .absent || v == .present || v == .bad
  | .binary, v => v == .low || v == .high

/-- Values a point's kind can show as settled (R7). -/
def PointKind.settled : PointKind → PointValue → Bool
  | .breaker, v | .disconnector, v | .earthing, v => v == .opened || v == .closed
  | .voltage, v => v == .absent || v == .present
  | .binary, v => v == .low || v == .high

/-! ### Readings of the lines -/

/-- R20. -/
def ContactPair.reading : ContactPair → PointValue
  | ⟨true, false⟩ => .opened
  | ⟨false, true⟩ => .closed
  | ⟨false, false⟩ => .travel
  | ⟨true, true⟩ => .bad

/-- R21. -/
def VoltageLines.reading (v : VoltageLines) : PointValue :=
  if v.healthy then (if v.presence then .present else .absent) else .bad

/-- R22. -/
def binaryReading (made : Bool) : PointValue := if made then .high else .low

/-- R23. -/
def Lines.selectorReading (l : Lines) : Selector := if l.selRemote && !l.selLocal then .remote else .atBay

/-- The contact pair numbered `n` (R8). -/
def Lines.pair (l : Lines) (n : Nat) : ContactPair := (l.contacts[n - 1]?).getD ⟨false, false⟩
def Lines.volt (l : Lines) (n : Nat) : VoltageLines := (l.voltages[n - 1]?).getD ⟨false, false⟩
def Lines.bin (l : Lines) (n : Nat) : Bool := (l.binaries[n - 1]?).getD false

/-- The raw reading of an input of a point of kind `k` (R20 to R22). -/
def Lines.reading (l : Lines) (k : PointKind) (input : Nat) : PointValue :=
  match k with
  | .voltage => (l.volt input).reading
  | .binary => binaryReading (l.bin input)
  | .breaker => (l.pair input).reading
  | .disconnector => (l.pair input).reading
  | .earthing => (l.pair input).reading

/-- The level of a line now. -/
def Lines.level (l : Lines) : Line → Bool
  | .contactOpen n => (l.pair n).opened
  | .contactClosed n => (l.pair n).closed
  | .presence n => (l.volt n).presence
  | .healthy n => (l.volt n).healthy
  | .binary n => l.bin n
  | .selRemote => l.selRemote
  | .selLocal => l.selLocal

/-- The lines with one of them made or not; a number the unit has no input for changes none. -/
def Lines.change (l : Lines) (line : Line) (made : Bool) : Lines :=
  match line with
  | .contactOpen n =>
    if n = 0 then l else { l with contacts := l.contacts.setIfInBounds (n - 1) { l.pair n with opened := made } }
  | .contactClosed n =>
    if n = 0 then l else { l with contacts := l.contacts.setIfInBounds (n - 1) { l.pair n with closed := made } }
  | .presence n =>
    if n = 0 then l else { l with voltages := l.voltages.setIfInBounds (n - 1) { l.volt n with presence := made } }
  | .healthy n =>
    if n = 0 then l else { l with voltages := l.voltages.setIfInBounds (n - 1) { l.volt n with healthy := made } }
  | .binary n => if n = 0 then l else { l with binaries := l.binaries.setIfInBounds (n - 1) made }
  | .selRemote => { l with selRemote := made }
  | .selLocal => { l with selLocal := made }

/-- Whether a line belongs to the input of a local point of kind `k`. -/
def lineFeeds (line : Line) (k : PointKind) (input : Nat) : Bool :=
  match line with
  | .contactOpen n => k.isSwitch && n == input
  | .contactClosed n => k.isSwitch && n == input
  | .presence n => k == .voltage && n == input
  | .healthy n => k == .voltage && n == input
  | .binary n => k == .binary && n == input
  | .selRemote => false
  | .selLocal => false

/-- The local point whose input a line belongs to; inputs no local point names are never filtered (R24). -/
def YardModel.fedBy (m : YardModel) (line : Line) : Option Nat :=
  (m.locals.find? fun d =>
    match m.point? d.point with
    | some p => lineFeeds line p.kind d.input
    | none => false).map (·.point)

/-- The raw reading of a local point's input now. -/
def State.rawReading (s : State) (id : Nat) : PointValue :=
  match s.ctl.model.point? id, s.ctl.model.local? id with
  | some p, some d => s.bay.lines.reading p.kind d.input
  | _, _ => .bad

/-- The raw contact pair of a local switch now (R20). -/
def State.rawPair (s : State) (id : Nat) : ContactPair :=
  match s.ctl.model.local? id with
  | some d => s.bay.lines.pair d.input
  | none => ⟨false, false⟩

/-- A local switch's run time (R8). -/
def State.runTime (s : State) (id : Nat) : Nat :=
  match s.ctl.model.local? id with
  | some d => d.runTime
  | none => 0

/-- A local switch's recovery time (R8). -/
def State.recovery (s : State) (id : Nat) : Nat :=
  match s.ctl.model.local? id with
  | some d => d.recovery
  | none => 0

end Sys2Proof.Machine
end

