-- ==== Sys2Proof/Machine/Flags.lean ====
section
/-! DEFINITION. What is computed from State each time it is read: the quality of an entry (R42), the
selector state (R24), the ALERT line (R172) and the coil outputs (R28). None is stored (log 24). -/
namespace Sys2Proof.Machine

/-- R42: the quality of an entry, from the entry and its owner's peer record, at this moment. -/
def State.quality (s : State) (e : PointEntry) : Quality :=
  if e.owner = s.unit then
    (if e.value.isSome then .good else .never)
  else
    match s.peer? e.owner with
    | none => .never
    | some p =>
      match p.status with
      | .never => .never
      | .stale => .stale
      | .withdrawn => .withdrawn
      | .good =>
        if s.reached p.expiry then .stale
        else
          match e.presence with
          | .held => .good
          | .missing => .missing
          | .never => .never

/-- The selector state: LOCAL until the selector's first filtered reading (R24). -/
def BayIO.selectorState (b : BayIO) : Selector := b.selector.value.getD .atBay

/-- R172: ALERT is asserted while an event waits or the capture is locked. Without supply too it follows the queue and
the capture, which keep what they held until the next start (DESIGN CHOICE, log 36). -/
def State.alert (s : State) : Bool := !s.port.events.isEmpty || s.port.capture.isSome

/-- The coil outputs energised, as (coil pair, direction): the one the drive record names (R28). -/
def State.coils (s : State) : List (Nat × Target) :=
  match s.bay.drive with
  | none => []
  | some d =>
    match s.ctl.model.local? d.switch with
    | some l => [(l.coil, d.direction)]
    | none => []

/-- READ_POINT's time to expiry for a remote point (R54). -/
def State.toExpiry (s : State) (p : PeerRecord) : Nat := if p.status = .good then s.msTo p.expiry else 0

end Sys2Proof.Machine
end

