-- ==== Sys2Proof/Machine/Transmit.lean ====
section
/-! DEFINITION. The transmit list and the frame in hand (R92 to R95), and the publisher's changes, schedule and
bulletins (R109 to R118). -/
namespace Sys2Proof.Machine

/-! ### The transmit list (R92, R93) -/

/-- The slot a frame belongs in: 0 for the bulletin slot, else its zone (R92). -/
def FrameBody.slot : FrameBody → Nat
  | .bulletin _ _ _ _ => 0
  | .ask z _ _ _ => z
  | .hold z _ _ _ => z
  | .drop z => z
  | .yieldRequest z _ => z

/-- A frame put into its slot: in place of the one waiting there, else at the tail (R92). -/
def insertFrame (l : List Frame) (f : Frame) : List Frame :=
  if l.any (fun g => g.body.slot == f.body.slot) then
    modifyWhere (fun g => g.body.slot == f.body.slot) (fun _ => f) l
  else l ++ [f]

/-- Where a spell of idle medium begins for a frame entering DEFERRING now: now, if the medium is idle (R94). -/
def State.spellStart (s : State) : Option Nat := if s.link.mediumBusy then none else some s.micros

/-- The frame at the head of the list is taken in hand for its first attempt (R93). -/
def State.takeHead (s : State) : State :=
  match s.link.txList with
  | [] => s
  | f :: rest =>
    s.setLink { s.link with txList := rest, inHand := some ⟨f, 0, true, s.micros⟩, stage := .deferring s.spellStart }

/-- In RUN, whenever the transmitter is IDLE and the list is not empty, the head is taken in hand (R93). -/
def State.takeInHand (s : State) : State :=
  if s.ctl.mode = .run ∧ s.link.stage = .idle then s.takeHead else s

/-- This unit's frame with a body. -/
def State.frame (s : State) (b : FrameBody) : Frame := { sender := s.unit, revision := s.ctl.model.revision, body := b }

/-- A frame offered to the transmit list: taken in RUN with the link ACTIVE and no orderly stop begun,
else discarded (R92). -/
def State.offer (s : State) (b : FrameBody) : State :=
  if s.running = true ∧ s.link.mode = .active then
    (s.setLink { s.link with txList := insertFrame s.link.txList (s.frame b) }).takeInHand
  else s

/-- The idle medium needed before an attempt after `n` unsuccessful ones, in µs: 10 for the first (R94),
the back-off of R95 after that. -/
def neededSpell (unit n : Nat) : Nat :=
  if n = 0 then Config.firstSpellUs else ((3 * unit + 5 * n) % 16 + 1) * 50

/-- The bytes a frame takes on the medium: header, body and CRC (section 12.2). -/
def FrameBody.bodyLength : FrameBody → Nat
  | .bulletin _ _ _ items => 6 + 4 * items.length
  | .ask _ _ _ _ => 5
  | .hold _ _ _ _ => 5
  | .drop _ => 1
  | .yieldRequest _ _ => 2

def Frame.length (f : Frame) : Nat := f.body.bodyLength + 7

/-! ### The publisher (chapter 7) -/

/-- The code of a point value (section 12.5). -/
def PointValue.code : PointValue → Byte
  | .opened => 1
  | .closed => 2
  | .travel => 3
  | .bad => 4
  | .absent => 5
  | .present => 6
  | .low => 7
  | .high => 8

/-- The point value a code names, if any (section 12.5, R180). -/
def valueOfCode (c : Byte) : Option PointValue :=
  if c = 1 then some .opened
  else if c = 2 then some .closed
  else if c = 3 then some .travel
  else if c = 4 then some .bad
  else if c = 5 then some .absent
  else if c = 6 then some .present
  else if c = 7 then some .low
  else if c = 8 then some .high
  else none

/-- The published point set as a point list: each local entry that holds a value, ascending by id, with a
switch's suspect flag (R41, R116). -/
def State.pointList (s : State) : List Item :=
  s.image.entries.filterMap fun e =>
    if e.owner = s.unit then
      e.value.map fun v => { point := e.id, value := v.code, flags := if e.kind.isSwitch && e.suspect then 1 else 0 }
    else none

/-- The hold time of a bulletin whose next interval is `i` (R115). -/
def State.holdFor (s : State) (i : Nat) : Nat := 2 * i + s.params.margin

/-- The present state number; a publisher with none counts from 0 (R110). -/
def State.stateNumber (s : State) : StateNo := s.pub.stateNo.getD 0

/-- A bulletin of the present state number and the given repeat number and interval (R116). -/
def State.bulletinBody (s : State) (r : Byte) (i : Nat) : FrameBody :=
  .bulletin s.stateNumber r (s.holdFor i) s.pointList

/-- The schedule restarted in RUN with the link ACTIVE: a bulletin of repeat number 0 and I = B is offered
and awaited (R111). -/
def State.restartSchedule (s : State) : State :=
  if s.running = true ∧ s.link.mode = .active then
    (s.setPub { s.pub with stage := .offered s.stateNumber 0 }).offer (s.bulletinBody 0 s.params.base)
  else s

/-- A state number counted with its repeat number at 0 and the interval at B; the schedule restarts unless
the link is MUTED (R109, R110, R111, R117) or a stop has begun (R118). -/
def State.countState (s : State) (n : StateNo) : State :=
  (s.setPub { s.pub with stateNo := some n, repeatNo := 0, interval := s.params.base }).restartSchedule

/-- One change of the published point set: not taken before RUN (R108), else the state number advances by
one (R110). -/
def State.publishChange (s : State) : State :=
  match s.pub.stateNo with
  | none => s
  | some n => s.countState (n + 1)

/-- The publisher's part of the entry to RUN: state number 0 (R15, R109, R117). -/
def State.publishStart (s : State) : State := s.countState 0

/-- A repeat number raised by one, held at 255 (R110). -/
def raiseRepeat (r : Byte) : Byte := if r = 255 then 255 else r + 1

/-- A bulletin falls due (R113). -/
def State.publishDue (s : State) : State :=
  let r := raiseRepeat s.pub.repeatNo
  let i := min (2 * s.pub.interval) s.params.heartbeat
  let s1 := s.setPub { s.pub with repeatNo := r, interval := i, stage := .offered s.stateNumber r }
  s1.offer (s1.bulletinBody r i)

/-- A bulletin reported sent: it starts the wait for the next if it is the awaited one (R112). -/
def State.publishSent (s : State) (n : StateNo) (r : Byte) : State :=
  if s.pub.stage = .offered n r then s.setPub { s.pub with stage := .due (after s.now s.pub.interval) } else s

/-- A probe is formed, awaited, placed in the bulletin slot and taken in hand at once (R101, R117); the probe
timer stops while it is in hand. -/
def State.startProbe (s : State) : State :=
  let s1 := s.setPub { s.pub with repeatNo := 0, interval := s.params.base, stage := .offered s.stateNumber 0 }
  let f := s1.frame (s1.bulletinBody 0 s1.params.base)
  (s1.setLink { s1.link with probeTimer := none, txList := insertFrame s1.link.txList f }).takeInHand

/-- The report of a SENT probe, with the link ACTIVE again: the schedule goes on if the state number has not
advanced, else a bulletin of the present state goes out at once (R117). -/
def State.probeSent (s : State) (n : StateNo) : State :=
  if s.pub.stateNo = some n then s.setPub { s.pub with stage := .due (after s.now s.params.base) }
  else (s.setPub { s.pub with repeatNo := 0, interval := s.params.base }).restartSchedule

/-- A withdrawal: the present numbers, hold time 0, no points (R118). -/
def State.withdrawal (s : State) : FrameBody := .bulletin s.stateNumber s.pub.repeatNo 0 []

/-- The schedule stopped; the numbers and the interval are kept (R117, R118). -/
def State.stopSchedule (s : State) : State := s.setPub { s.pub with stage := .stopped }

end Sys2Proof.Machine
end

