-- ==== Sys2Proof/Machine/Image.lean ====
section
/-! DEFINITION. The position image (chapter 3): local updates, the revision check, the acceptance of bulletins,
expiry and zone movement times. -/
namespace Sys2Proof.Machine

/-- A zone movement for a switch: the movement time of every zone it requires becomes now (R53). -/
def State.zoneMovement (s : State) (id : Nat) : State :=
  s.setImage { s.image with
    moves := modifyWhere (fun m => (s.ctl.model.required id).contains m.zone) (fun m => { m with time := some s.now })
      s.image.moves }

/-- A local update carries a changed value or a changed suspect flag against the entry (R41). -/
def PointEntry.changedBy (e : PointEntry) (v : Option PointValue) (mark : Bool) : Bool :=
  e.value != v || e.suspect != mark

/-- One local update from the Bay I/O block (R41): the entry is written, a changed switch value is a zone
movement, and a changed value or flag is one change for the publisher. An update of a switch that has no
filtered value yet (R29, R34) carries none; to an entry that holds none it is no change of value and no zone movement
(DEDUCED, log 16). -/
def State.localUpdate (s : State) (id : Nat) (v : Option PointValue) (mark : Bool) : State :=
  match s.entry? id with
  | none => s
  | some e =>
    let s1 := s.mapEntry id fun e => { e with value := v, suspect := mark, presence := .held }
    let s2 := if e.value != v && e.kind.isSwitch then s1.zoneMovement id else s1
    if e.changedBy v mark then s2.publishChange else s2

/-- The update the Bay I/O block hands over for a local point as it now stands (R25, R34, R37). -/
def State.handOver (s : State) (id : Nat) : State :=
  match s.localPoint? id with
  | none => s
  | some p => s.localUpdate id p.value p.suspect

/-! ### Bulletins -/

/-- The revision check (R44): a frame of another revision is reported the first time; one of this revision
clears the sender's flag. -/
def State.revisionCheck (s : State) (sender revision : Nat) : State :=
  if revision = s.ctl.model.revision then s.mapPeer sender fun p => { p with mismatch := false }
  else
    match s.peer? sender with
    | none => s
    | some p =>
      if p.mismatch then s
      else (s.mapPeer sender fun p => { p with mismatch := true }).event (.revisionMismatch sender revision)

/-- The value a bulletin carries for an entry: that of its first item of that id, if it is one of the kind's (R47;
DEDUCED, log 28). -/
def carried (e : PointEntry) (items : List Item) : Option (PointValue × Bool) :=
  match items.find? (fun i => i.point == e.id) with
  | none => none
  | some i =>
    match valueOfCode i.value with
    | none => none
    | some v => if e.kind.admits v then some (v, e.kind.isSwitch && i.flags.getLsbD 0) else none

/-- An entry of peer `sender` after a bulletin accepted as new (R46 steps 1 and 2). -/
def applyItem (sender : Nat) (items : List Item) (e : PointEntry) : PointEntry :=
  if e.owner = sender then
    match carried e items with
    | some (v, mark) => { e with value := some v, suspect := mark, presence := .held }
    | none => { e with presence := .missing }
  else e

/-- Whether a bulletin accepted as new changes the value of a switch entry (R46 step 1). -/
def movedBy (sender : Nat) (items : List Item) (e : PointEntry) : Bool :=
  e.kind.isSwitch && (applyItem sender items e).value != e.value

/-- The zone movements of a list of switches, in turn (R46, R53). -/
def zoneMovements : List PointEntry → State → State
  | [], s => s
  | e :: rest, s => zoneMovements rest (s.zoneMovement e.id)

/-- A bulletin accepted as new (R46). -/
def State.acceptNew (s : State) (p : PeerRecord) (n : StateNo) (r : Byte) (hold : Nat) (items : List Item) : State :=
  let moved := s.image.entries.filter (movedBy p.unit items)
  let s1 := s.setImage { s.image with entries := s.image.entries.map (applyItem p.unit items) }
  let s2 := zoneMovements moved s1
  let s3 := s2.mapPeer p.unit fun q =>
    { q with lastState := n, lastRepeat := r, expiry := after s.now (clampHold hold), status := .good }
  if p.status = .good then s3 else s3.event (.peerGood p.unit)

/-- A repeat (R48). -/
def State.acceptRepeat (s : State) (p : PeerRecord) (r : Byte) (hold : Nat) : State :=
  s.mapPeer p.unit fun q => { q with lastRepeat := r, expiry := after s.now (clampHold hold) }

/-- A withdrawal (R50). -/
def State.acceptWithdrawal (s : State) (p : PeerRecord) (n : StateNo) (r : Byte) : State :=
  let s1 := s.mapPeer p.unit fun q => { q with lastState := n, lastRepeat := r, status := .withdrawn }
  if p.status = .withdrawn then s1 else s1.event (.peerWithdrawn p.unit)

/-- R45's distance between a received and a held state number. -/
def stateDistance (received last : StateNo) : Nat := (received - last).toNat

/-- A bulletin from a peer that has passed the revision check (R45). -/
def State.takeBulletin (s : State) (sender : Nat) (n : StateNo) (r : Byte) (hold : Nat) (items : List Item) : State :=
  match s.peer? sender with
  | none => s
  | some p =>
    if p.status = .good ∧ 32768 ≤ stateDistance n p.lastState then s
    else if hold = 0 then s.acceptWithdrawal p n r
    else if p.status = .good ∧ stateDistance n p.lastState = 0 then s.acceptRepeat p r hold
    else s.acceptNew p n r hold items

/-- A peer's expiry is taken: a GOOD peer whose expiry the clock has reached becomes STALE (R51). -/
def State.expirePeer (s : State) (unit : Nat) : State :=
  match s.peer? unit with
  | none => s
  | some p =>
    if p.status = .good ∧ s.reached p.expiry = true then
      (s.mapPeer unit fun q => { q with status := .stale }).event (.peerStale unit)
    else s

/-! ### Stored times (R120) -/

/-- 2^30 ms have passed since a stored time (R120, log 30). -/
def State.lapsed (s : State) (t : Time) : Bool := decide (Config.lapseMs ≤ (s.now - t).toNat)

/-- A stored time after its lapse has been looked for (R120). -/
def State.lapse (s : State) (t : Option Time) : Option Time :=
  match t with
  | none => none
  | some t => if s.lapsed t then none else some t

/-- A stored completion or movement time lapses (R120). -/
def State.lapseStored (s : State) : StoredTime → State
  | .completion id => s.mapPoint id fun p => { p with completion := s.lapse p.completion }
  | .movement z =>
    s.setImage { s.image with
      moves := modifyWhere (fun m => m.zone == z) (fun m => { m with time := s.lapse m.time }) s.image.moves }

/-- PEER_EXPIRY: a peer's expiry is taken in QUIET or RUN (R51, R57). -/
def execPeerExpiry (unit : Nat) (s : State) : Host.Outcome State Fault Refusal :=
  .next (if s.working then s.expirePeer unit else s)

/-- STORED_TIME_LAPSE: a stored time lapses at its owner, in QUIET or RUN (R120, R57). -/
def execStoredTimeLapse (which : StoredTime) (s : State) : Host.Outcome State Fault Refusal :=
  .next (if s.working then s.lapseStored which else s)

end Sys2Proof.Machine
end

