-- ==== Sys2Proof/Machine/Colouring.lean ====
section
/-! DEFINITION. The colouring engine (chapter 4): classes, reachability, the live and earth sets, facts and
colours, islands, isolation, bridging and the region of a prospect. Nothing is kept between calls. -/
namespace Sys2Proof.Machine

/-! ### Classes (R60 to R63) -/

/-- A prospect: one local switch taken to be in a target position (R62). -/
structure Prospect where
  switch : Nat
  target : Target
  deriving DecidableEq, Repr

/-- A switch of the model as a colouring sees it: its nodes, whether it is an earthing switch, its class. -/
structure ClassedSwitch where
  id : Nat
  nodeA : Nat
  nodeB : Nat
  earthing : Bool
  cls : SwitchClass
  deriving DecidableEq, Repr

/-- A source node of the model and its class (R61). -/
structure ClassedSource where
  node : Nat
  cls : VoltageClass
  deriving DecidableEq, Repr

/-- R60. -/
def plainSwitchClass (value : Option PointValue) (q : Quality) (suspect : Bool) : SwitchClass :=
  if q = .good ∧ suspect = false ∧ value = some .closed then .cc
  else if q = .good ∧ suspect = false ∧ value = some .opened then .co
  else .un

/-- R61. -/
def plainVoltageClass (value : Option PointValue) (q : Quality) : VoltageClass :=
  if q = .good ∧ value = some .present then .vp
  else if q = .good ∧ value = some .absent then .va
  else .vu

/-- R63: a switch class under a reading. -/
def SwitchClass.under (r : Reading) (c : SwitchClass) : SwitchClass :=
  match r, c with
  | .closedFavourable, .un => .cc
  | .openFavourable, .un => .co
  | _, c => c

/-- R63: a voltage class under a reading. -/
def VoltageClass.under (r : Reading) (c : VoltageClass) : VoltageClass :=
  match r, c with
  | .closedFavourable, .vu => .va
  | .openFavourable, .vu => .va
  | _, c => c

/-- The class a prospect forces (R62). -/
def Target.forced : Target → SwitchClass
  | .closed => .cc
  | .opened => .co

/-- The class of a switch point under a reading and a prospect (R60, R62, R63); a point with no entry is
unsure. -/
def State.switchClass (s : State) (r : Reading) (pr : Option Prospect) (id : Nat) : SwitchClass :=
  match pr with
  | some p => if p.switch = id then p.target.forced else base
  | none => base
where
  base : SwitchClass :=
    match s.entry? id with
    | some e => (plainSwitchClass e.value (s.quality e) e.suspect).under r
    | none => SwitchClass.under r .un

/-- The class of a voltage point under a reading (R61, R63). -/
def State.voltageClass (s : State) (r : Reading) (id : Nat) : VoltageClass :=
  match s.entry? id with
  | some e => (plainVoltageClass e.value (s.quality e)).under r
  | none => VoltageClass.under r .vu

/-- Every switch of the model, classed. -/
def State.classedSwitches (s : State) (r : Reading) (pr : Option Prospect) : List ClassedSwitch :=
  (s.ctl.model.points.filter fun p => p.kind.isSwitch).map fun p =>
    { id := p.id, nodeA := p.nodeA, nodeB := p.nodeB, earthing := p.kind == .earthing, cls := s.switchClass r pr p.id }

/-- Every source node of the model, classed. -/
def State.classedSources (s : State) (r : Reading) : List ClassedSource :=
  (s.ctl.model.points.filter fun p => p.kind == .voltage).map fun p =>
    { node := p.nodeA, cls := s.voltageClass r p.id }

/-! ### Reachability (R64) -/

/-- One path grows a set of nodes: if one of its ends is in the set, so is the other. -/
def growBy (acc : List Nat) (e : Nat × Nat) : List Nat :=
  if acc.contains e.1 then (if acc.contains e.2 then acc else e.2 :: acc)
  else if acc.contains e.2 then e.1 :: acc
  else acc

/-- One pass over the paths. -/
def growPass (edges : List (Nat × Nat)) (set : List Nat) : List Nat := edges.foldl growBy set

/-- So many passes. -/
def growPasses (edges : List (Nat × Nat)) : Nat → List Nat → List Nat
  | 0, set => set
  | n + 1, set => growPasses edges n (growPass edges set)

/-- The nodes reachable from a set of start nodes along paths in both directions (R64). Every pass that adds
a node uses a path no pass used before, so as many passes as paths reach them all. -/
def reach (edges : List (Nat × Nat)) (seeds : List Nat) : List Nat := growPasses edges edges.length seeds

/-- Which classes a path may have. -/
def ccOnly (c : SwitchClass) : Bool := c == .cc
def ccOrUn (c : SwitchClass) : Bool := c != .co

/-- The paths a search may use: breakers and disconnectors of the admitted classes, one switch left out if
named (R64). -/
def pathsOf (sw : List ClassedSwitch) (allow : SwitchClass → Bool) (leftOut : Option Nat) : List (Nat × Nat) :=
  (sw.filter fun w => !w.earthing && allow w.cls && leftOut != some w.id).map fun w => (w.nodeA, w.nodeB)

/-! ### Sets, facts and colours (R65 to R68) -/

/-- A colouring: its classed switches and sources with the live and earth sets (R65, R66). -/
structure Colouring where
  switches : List ClassedSwitch
  sources : List ClassedSource
  liveCertain : List Nat
  livePossible : List Nat
  earthCertain : List Nat
  earthPossible : List Nat
  deriving DecidableEq, Repr

def sourceNodes (src : List ClassedSource) (allow : VoltageClass → Bool) : List Nat :=
  (src.filter fun v => allow v.cls).map (·.node)

/-- The nodes that carry an earthing switch of the admitted classes (R66). -/
def earthSeeds (sw : List ClassedSwitch) (allow : SwitchClass → Bool) : List Nat :=
  (sw.filter fun w => w.earthing && allow w.cls).map (·.nodeA)

def vpOnly (c : VoltageClass) : Bool := c == .vp
def vpOrVu (c : VoltageClass) : Bool := c != .va

/-- The sets of R65 and R66 from classed switches and sources. -/
def colouringOf (sw : List ClassedSwitch) (src : List ClassedSource) : Colouring :=
  { switches := sw
    sources := src
    liveCertain := reach (pathsOf sw ccOnly none) (sourceNodes src vpOnly)
    livePossible := reach (pathsOf sw ccOrUn none) (sourceNodes src vpOrVu)
    earthCertain := reach (pathsOf sw ccOnly none) (earthSeeds sw ccOnly)
    earthPossible := reach (pathsOf sw ccOrUn none) (earthSeeds sw ccOrUn) }

/-- A colouring of the image as it stands (R59). -/
def State.colouring (s : State) (r : Reading) (pr : Option Prospect) : Colouring :=
  colouringOf (s.classedSwitches r pr) (s.classedSources r)

/-- A three-valued fact from the certain and the possible set (R67). -/
def factOf (certain possible : List Nat) (n : Nat) : Fact :=
  if certain.contains n then .yes else if possible.contains n then .maybe else .no

/-- The live fact of a node; node 0 is not live (R67, R68). -/
def Colouring.live (c : Colouring) (n : Nat) : Fact := if n = 0 then .no else factOf c.liveCertain c.livePossible n

/-- The earthed fact of a node; node 0 is EARTH (R67, R68). -/
def Colouring.earthed (c : Colouring) (n : Nat) : Fact :=
  if n = 0 then .yes else factOf c.earthCertain c.earthPossible n

/-- R68. -/
def colourOf : Fact → Fact → Colour
  | .no, .no => .dead
  | .no, .yes => .earthed
  | .yes, .no => .live
  | .yes, .yes => .clash
  | .maybe, _ => .unsure
  | _, .maybe => .unsure

def Colouring.colour (c : Colouring) (n : Nat) : Colour := colourOf (c.live n) (c.earthed n)

/-! ### Islands, isolation, bridging, region (R69 to R72) -/

/-- The island of an end of switch `id` (R69). -/
def Colouring.island (c : Colouring) (id endNode : Nat) : List Nat :=
  reach (pathsOf c.switches ccOrUn (some id)) [endNode]

/-- R70. -/
def Colouring.isolated (c : Colouring) (id endNode : Nat) : Bool :=
  let isl := c.island id endNode
  !(sourceNodes c.sources vpOrVu).any isl.contains && !(earthSeeds c.switches ccOrUn).any isl.contains

/-- R71. -/
def Colouring.bridged (c : Colouring) (id x y : Nat) : Bool :=
  (reach (pathsOf c.switches ccOnly (some id)) [x]).contains y

/-- The conductor nodes of a switch of the model (R72). -/
def conductorNodes (p : PointDef) : List Nat := if p.kind = .earthing then [p.nodeA] else [p.nodeA, p.nodeB]

/-- The region of a prospect on a switch (R72). -/
def Colouring.region (c : Colouring) (p : PointDef) : List Nat :=
  reach (pathsOf c.switches ccOrUn none) (conductorNodes p)

/-- A node that could be live and earthed at once (R84). -/
def Colouring.offends (c : Colouring) (n : Nat) : Bool := c.live n != .no && c.earthed n != .no

/-- The lowest-numbered offending node of a region, if any (R84). -/
def lowest (l : List Nat) : Option Nat :=
  l.foldl (fun acc n => match acc with | none => some n | some m => some (min m n)) none

def Colouring.clash (c : Colouring) (p : PointDef) : Option Nat := lowest ((c.region p).filter c.offends)

end Sys2Proof.Machine
end

