-- ==== Sys2Proof/Machine/Evaluation.lean ====
section
/-! DEFINITION. The interlock evaluator (chapter 5): the checks of R77 in order, and the qualifier of a refusal.
An evaluation reads the state and writes nothing (R75). -/
namespace Sys2Proof.Machine

/-- A refusal with no condition and no node. -/
def refusal (reason : Reason) (q : Qualifier) : Verdict :=
  .refuse { reason := reason, condition := 0, point := 0, node := 0, qualifier := q }

def refusalAt (reason : Reason) (node : Nat) (q : Qualifier) : Verdict :=
  .refuse { reason := reason, condition := 0, point := 0, node := node, qualifier := q }

/-- The conditions of a direction (R7). -/
def LocalDef.conditions (d : LocalDef) : Target → List Condition
  | .closed => d.closeConditions
  | .opened => d.openConditions

/-- The qualifier of a condition that is not met, or none if it is (R80). -/
def State.conditionFails (s : State) (c : Condition) : Option Qualifier :=
  match s.entry? c.point with
  | none => some .unsure
  | some e =>
    if s.quality e ≠ .good then some .unsure
    else if e.kind.isSwitch && e.suspect then some .unsure
    else if e.value = some c.value then none
    else some .certain

/-- Check 3: the conditions in order, numbered from `i` (R80). -/
def State.checkConditions (s : State) : Nat → List Condition → Option Verdict
  | _, [] => none
  | i, c :: rest =>
    match s.conditionFails c with
    | some q => some (.refuse { reason := .extraCondition, condition := i, point := c.point, node := 0, qualifier := q })
    | none => s.checkConditions (i + 1) rest

def qualify (couldPass : Bool) : Qualifier := if couldPass then .unsure else .certain

/-- An end of a switch is isolated in a colouring (R70, R81). -/
def Colouring.anEndIsolated (c : Colouring) (p : PointDef) : Bool := c.isolated p.id p.nodeA || c.isolated p.id p.nodeB

/-- Check 4 for a disconnector, with its qualifier (R81, R86). -/
def State.checkDisconnector (s : State) (p : PointDef) : Option Verdict :=
  let c := s.colouring .plain none
  if c.bridged p.id p.nodeA p.nodeB || c.anEndIsolated p then none
  else some (refusal .notIsolated (qualify
    ((s.colouring .closedFavourable none).bridged p.id p.nodeA p.nodeB ||
      (s.colouring .openFavourable none).anEndIsolated p)))

/-- Check 4 for an earthing switch closed, with its qualifier (R82, R87). -/
def State.checkEarthing (s : State) (p : PointDef) : Option Verdict :=
  if (s.colouring .plain none).live p.nodeA = .no then none
  else some (refusalAt .nodeNotDead p.nodeA (qualify ((s.colouring .openFavourable none).live p.nodeA == .no)))

/-- Check 4, the kind rule (R81 to R83). -/
def State.checkKind (s : State) (p : PointDef) (t : Target) : Option Verdict :=
  match p.kind, t with
  | .disconnector, _ => s.checkDisconnector p
  | .earthing, .closed => s.checkEarthing p
  | .earthing, .opened => none
  | .breaker, _ => none
  | .voltage, _ => none
  | .binary, _ => none

/-- Check 5, the prospective clash check of a close, with its qualifier (R84, R87). -/
def State.checkClash (s : State) (p : PointDef) (t : Target) : Option Verdict :=
  match t with
  | .opened => none
  | .closed =>
    let pr : Option Prospect := some { switch := p.id, target := .closed }
    match (s.colouring .plain pr).clash p with
    | none => none
    | some n => some (refusalAt .clashRisk n (qualify ((s.colouring .openFavourable pr).clash p).isNone))

/-- Checks 3 to 5 in order (R77). -/
def State.laterChecks (s : State) (p : PointDef) (t : Target) : Verdict :=
  let conds := match s.ctl.model.local? p.id with
    | some d => d.conditions t
    | none => []
  match s.checkConditions 1 conds with
  | some v => v
  | none =>
    match s.checkKind p t with
    | some v => v
    | none =>
      match s.checkClash p t with
      | some v => v
      | none => .permit false

/-- An evaluation of a local switch and a target (R75, R77). The callers name only local switches; another
id is refused as a switch nothing is known of. -/
def State.evaluate (s : State) (id : Nat) (t : Target) : Verdict :=
  match s.entry? id, s.ctl.model.point? id with
  | some e, some p =>
    if e.suspect then refusal .switchSuspect .certain
    else if e.value = some .travel then refusal .switchMoving .certain
    else if e.value = some t.value then .permit true
    else s.laterChecks p t
  | _, _ => refusal .switchSuspect .certain

end Sys2Proof.Machine
end

