-- ==== Sys2Proof/Machine/BayIO.lean ====
section
/-! DEFINITION. The Bay I/O block (chapter 2): filtering, travel supervision, drive orders, failures and the
SUSPECT mark. What a selector turn does to programs stands with the sequencer. -/
namespace Sys2Proof.Machine

/-! ### Failures (R34) -/

/-- The drive record removed, and with it the coil's energy (R28). -/
def State.dropDrive (s : State) : State := s.setBay { s.bay with drive := none }

/-- The end of a drive left for the sequencer to take as an event of its own (R154). -/
def State.reportDrive (s : State) (r : DriveReport) : State := s.setBay { s.bay with report := some r }

/-- What the capture takes for a failure of a switch (R34 step 3, R173): a drive failure carries its handle and
step and the HELD zones, a stuck switch none of them. -/
def State.failureCapture (s : State) (kind : FaultKind) (id : Nat) (order : Option (Nat × Nat)) : Capture :=
  { kind := kind
    time := s.now
    subject := id
    handle := (order.map (·.1)).getD 0
    step := (order.map (·.2)).getD 0
    stepState := order.map fun _ => .driving
    value := (s.localPoint? id).bind (·.value)
    raw := some (s.rawPair id)
    zones := if order.isSome then s.heldZones else [] }

/-- The SUSPECT mark set; a stuck timer stops (R27, R36). -/
def State.markSuspect (s : State) (id : Nat) : State :=
  s.mapPoint id fun p => { p with suspect := true, stuck := none }

/-- A failure (R34): of a drive, with the handle and step of its order, or of a stuck switch. -/
def State.failSwitch (s : State) (kind : FaultKind) (id : Nat) (order : Option (Nat × Nat)) : State :=
  let s1 := if order.isSome then s.dropDrive else s
  let s2 := s1.markSuspect id
  let s3 := s2.offerCapture (s2.failureCapture kind id order)
  let s4 := (s3.event (.fault id kind)).event (.switchSuspect id)
  let s5 := if order.isSome then s4.reportDrive (.failed kind) else s4
  s5.handOver id

/-! ### Drives (R28 to R33) -/

/-- A drive order (R29). A switch that is not at the end opposite the target cannot be driven and fails with
BAD_POSITION: BAD or no value, the cases the manual names, are the only ones a VERIFY leaves (log 16). -/
def State.driveOrder (s : State) (id : Nat) (t : Target) (handle step : Nat) : State :=
  if (s.localPoint? id).bind (·.value) = some t.startEnd then
    let s1 := s.mapPoint id fun p => { p with stuck := none }
    s1.setBay { s1.bay with
      drive := some { switch := id, direction := t, start := s.now, expiry := after s.now (s.runTime id),
                      leftStart := false, handle := handle, step := step } }
  else s.failSwitch .badPosition id (some (handle, step))

/-- A drive completes (R30). -/
def State.completeDrive (s : State) (id : Nat) : State :=
  let s1 := (s.dropDrive.mapPoint id fun p => { p with completion := some s.now }).reportDrive .completed
  s1.handOver id

/-- The left-start flag is set once the filtered value differs from the start end (R28, R30). -/
def DriveRecord.left (d : DriveRecord) (v : PointValue) : DriveRecord :=
  { d with leftStart := d.leftStart || v != d.direction.startEnd }

/-- Travel supervision of a changed filtered value of the driven switch (R30, R32, R33). -/
def State.supervise (s : State) (d : DriveRecord) (v : PointValue) : State :=
  if v = d.direction.value then s.completeDrive d.switch
  else if v = .bad then s.failSwitch .badPosition d.switch (some (d.handle, d.step))
  else if v = d.direction.startEnd ∧ d.leftStart = true then
    s.failSwitch .wrongEnd d.switch (some (d.handle, d.step))
  else (s.setBay { s.bay with drive := some (d.left v) }).handOver d.switch

/-- The stuck timer of a switch not under drive after a change of its filtered value (R27). -/
def State.stuckRule (s : State) (id : Nat) (v : PointValue) : State :=
  s.mapPoint id fun p =>
    { p with stuck :=
        if v = .travel ∧ p.suspect = false then some (after s.now (s.runTime id)) else none }

/-- The uncommanded-change rule: a change from a value raises an event, a first value none (R26). -/
def State.uncommanded (s : State) (id : Nat) (old : Option PointValue) (v : PointValue) : State :=
  match old with
  | some o => s.event (.uncommandedChange id o v)
  | none => s

/-- A switch is under drive while the drive record names it (R26, R28). -/
def State.underDrive? (s : State) (id : Nat) : Option DriveRecord :=
  match s.bay.drive with
  | some d => if d.switch = id then some d else none
  | none => none

/-- The handling of a changed filtered value of a local point (R25). -/
def State.localChange (s : State) (id : Nat) (old : Option PointValue) (v : PointValue) : State :=
  if s.ctl.model.isSwitch id then
    match s.underDrive? id with
    | some d => s.supervise d v
    | none => ((s.uncommanded id old v).stuckRule id v).handOver id
  else s.handOver id

/-! ### Filtering (R19) -/

/-- A local point's filter on a new raw reading (R19; DEDUCED, log 29). -/
def LocalPoint.read (p : LocalPoint) (r : PointValue) (now : Time) : LocalPoint :=
  { p with pending := if p.value = some r then none else some { reading := r, since := now } }

/-- The selector's filter on a new raw reading (R19, R23). -/
def SelectorFilter.read (f : SelectorFilter) (r : Selector) (now : Time) : SelectorFilter :=
  { f with pending := if f.value = some r then none else some (r, now) }

/-- A changed line forms its input's new reading, where the unit filters (R19, R24). -/
def State.formReading (s : State) (line : Line) : State :=
  match line with
  | .selRemote => s.setBay { s.bay with selector := s.bay.selector.read s.bay.lines.selectorReading s.now }
  | .selLocal => s.setBay { s.bay with selector := s.bay.selector.read s.bay.lines.selectorReading s.now }
  | line =>
    match s.ctl.model.fedBy line with
    | some id => s.mapPoint id fun p => p.read (s.rawReading id) s.now
    | none => s

/-- A raw line of the bay changes (R19). The line's level is the bay's and follows in every mode; readings
are formed in QUIET and RUN alone (R24). -/
def State.lineChange (s : State) (line : Line) (made : Bool) : State :=
  if s.bay.lines.level line = made then s
  else
    let s1 := s.setBay { s.bay with lines := s.bay.lines.change line made }
    if s1.working then s1.formReading line else s1

/-- A local point's filter timer expires: its pending reading becomes the filtered value (R19, R25). -/
def State.filterPoint (s : State) (id : Nat) : State :=
  match s.localPoint? id with
  | none => s
  | some p =>
    match p.pending with
    | none => s
    | some r =>
      if s.reached (after r.since s.params.filterTime) then
        (s.mapPoint id fun q => { q with value := some r.reading, pending := none }).localChange id p.value r.reading
      else s

/-- Filtering begins at the entry to QUIET: the raw reading of every input in use becomes pending (R24). -/
def State.beginFiltering (s : State) : State :=
  s.setBay { s.bay with
    points := s.ctl.model.locals.map fun d =>
      { id := d.point, value := none, pending := some { reading := s.rawReading d.point, since := s.now },
        suspect := false, completion := none, stuck := none }
    selector := { value := none, pending := some (s.bay.lines.selectorReading, s.now) } }

/-! ### Timers and requests -/

/-- A stuck timer expires (R27). -/
def State.stuckExpiry (s : State) (id : Nat) : State :=
  match (s.localPoint? id).bind (·.stuck) with
  | some t => if s.reached t then s.failSwitch .stuckIntermediate id none else s
  | none => s

/-- The run time of the drive present expires (R31). -/
def State.runExpiry (s : State) : State :=
  match s.bay.drive with
  | some d => if s.reached d.expiry then s.failSwitch .travelTimeout d.switch (some (d.handle, d.step)) else s
  | none => s

/-- The SUSPECT mark cleared (R37). -/
def State.clearMark (s : State) (id : Nat) : State :=
  ((s.mapPoint id fun p => { p with suspect := false }).event (.suspectCleared id)).handOver id

/-- RAW_INPUT_CHANGE: a raw line is made or not made (R19, R24). -/
def execRawInputChange (line : Line) (made : Bool) (s : State) : Host.Outcome State Fault Refusal :=
  .next (s.lineChange line made)

/-- RUN_TIME_EXPIRY (R31). -/
def execRunTimeExpiry (s : State) : Host.Outcome State Fault Refusal :=
  .next (if s.working then s.runExpiry else s)

/-- STUCK_TIMER_EXPIRY (R27). -/
def execStuckTimerExpiry (switch : Nat) (s : State) : Host.Outcome State Fault Refusal :=
  .next (if s.working then s.stuckExpiry switch else s)

end Sys2Proof.Machine
end

