-- ==== Sys2Proof/Machine/Claims.lean ====
section
/-! DEFINITION. The claim controller's own acts (chapter 8): rank, peer claim lists, asking, holding and
dropping. What the sequencer makes of them, and the frames heard, stand in later files. -/
namespace Sys2Proof.Machine

/-! ### Rank (R121) -/

/-- A claim's rank (R121). -/
structure Rank where
  urgency : Nat
  defer : Nat
  unit : Nat
  deriving DecidableEq, Repr

/-- `a` is the better rank (R121). -/
def Rank.better (a b : Rank) : Bool :=
  decide (a.urgency > b.urgency) ||
    (a.urgency == b.urgency && (decide (a.defer > b.defer) || (a.defer == b.defer && decide (a.unit < b.unit))))

def PeerClaim.rank (e : PeerClaim) : Rank := { urgency := e.urgency, defer := e.defer, unit := e.unit }

/-- The urgency and defer count of the active program (R121, R122); 0 with none, when no zone is claimed. -/
def State.ownUrgency (s : State) : Nat := (s.seq.active.map (·.urgency)).getD 0
def State.ownDefer (s : State) : Nat := (s.seq.active.map (·.defer)).getD 0

/-- The unit's own rank at this moment (R121). -/
def State.ownRank (s : State) : Rank := { urgency := s.ownUrgency, defer := s.ownDefer, unit := s.unit }

/-! ### Peer claim lists (R124 to R126) -/

/-- An entry counts only while the clock is before its expiry (R126). -/
def State.live (s : State) (e : PeerClaim) : Bool := !s.reached e.expiry

/-- An entry blocks the unit: a HOLD of any rank, or an ASK of better rank (R121). -/
def blocks (own : Rank) (e : PeerClaim) : Bool := e.kind == .hold || e.rank.better own

/-- The entries of a zone's list. -/
def State.peersOf (s : State) (z : Nat) : List PeerClaim :=
  match s.zone? z with
  | some c => c.peers
  | none => []

/-- A zone's list holds a blocking entry (R130, R132). -/
def State.blocked (s : State) (z : Nat) : Bool := (s.peersOf z).any fun e => s.live e && blocks s.ownRank e

/-- The worst-ranked entry of a list (R125). -/
def worstOf : List PeerClaim → Option PeerClaim
  | [] => none
  | e :: rest =>
    match worstOf rest with
    | none => some e
    | some w => if e.rank.better w.rank then some w else some e

/-- Of two live entries, the one whose expiry comes first, of equal ones that of the higher unit number
(R125, log 20). -/
def expiresFirst (now : Time) (a b : PeerClaim) : Bool :=
  decide ((a.expiry - now).toNat < (b.expiry - now).toNat) || (a.expiry == b.expiry && decide (b.unit < a.unit))

/-- The entry that expires first (R125). -/
def earliestOf (now : Time) : List PeerClaim → Option PeerClaim
  | [] => none
  | e :: rest =>
    match earliestOf now rest with
    | none => some e
    | some w => if expiresFirst now e w then some e else some w

def removeUnit (l : List PeerClaim) (unit : Nat) : List PeerClaim := l.filter fun e => e.unit != unit

def asksOf (l : List PeerClaim) : List PeerClaim := l.filter fun e => e.kind == .ask

/-- The entry that a full list gives up for a new frame, if any (R125). -/
def evicted (now : Time) (l : List PeerClaim) (new : PeerClaim) : Option PeerClaim :=
  match new.kind, worstOf (asksOf l) with
  | .hold, some w => some w
  | .hold, none => earliestOf now l
  | .ask, some w => if new.rank.better w.rank then some w else none
  | .ask, none => none

/-- A new entry for a list from which expired entries are gone: added if fewer than 8 remain, else by the
full-list policy (R125). -/
def addEntry (now : Time) (l : List PeerClaim) (new : PeerClaim) : List PeerClaim :=
  if l.length < Config.listCapacity then l ++ [new]
  else
    match evicted now l new with
    | some w => removeUnit l w.unit ++ [new]
    | none => l

/-- What an ASK or HOLD does to a list, and whether an entry was removed or replaced in a way that prompts
the test of R132 (R124, R125, R132, log 19). -/
def enterClaim (now : Time) (live : PeerClaim → Bool) (l : List PeerClaim) (new : PeerClaim) : List PeerClaim × Bool :=
  match l.find? (fun e => e.unit == new.unit && live e) with
  | some old =>
    (modifyWhere (fun e => e.unit == new.unit) (fun _ => new) l,
      !(old.kind == .ask && new.kind == .ask && !old.rank.better new.rank))
  | none =>
    let kept := l.filter live
    let out := addEntry now kept new
    (out, decide (kept.length < l.length) || (decide (Config.listCapacity ≤ kept.length) && out.any (fun e => e == new)))

/-! ### The unit's own claims -/

/-- An ASK frame's fields at this moment (R122). -/
def State.askBody (s : State) (z : Nat) : FrameBody := .ask z s.ownUrgency s.ownDefer (2 * s.params.window)
def State.holdBody (s : State) (z : Nat) : FrameBody := .hold z s.ownUrgency s.ownDefer (3 * s.params.refresh)

/-- A zone is asked for (R128). -/
def State.askZone (s : State) (z : Nat) : State :=
  let s1 := s.setOwn z
    (.asking (some (after s.now (s.params.window / 2))) (after s.now s.params.window))
  s1.offer (s1.askBody z)

/-- A HOLD is offered for a zone held, which restarts its refresh time (R133). -/
def State.holdZone (s : State) (z : Nat) : State :=
  let s1 := s.setOwn z (.held (after s.now s.params.refresh))
  s1.offer (s1.holdBody z)

/-- A zone in ASKING, WAITING or HELD is dropped: a DROP is offered and its state becomes IDLE (R136, R141). -/
def State.dropZone (s : State) (z : Nat) : State := if s.own z = .idle then s else (s.setOwn z .idle).offer (.drop z)

/-- The zones of a list dropped in order (R136, R141). -/
def State.dropZones : List Nat → State → State
  | [], s => s
  | z :: rest, s => State.dropZones rest (s.dropZone z)

def State.setJob (s : State) (j : Option (List Nat)) : State := s.setClaims { s.claims with job := j }

/-- A claim order: the list becomes the claim job and its lowest zone is asked for (R127). -/
def State.claimOrder (s : State) (zones : List Nat) : State :=
  let s1 := s.setJob (some zones)
  match zones with
  | [] => s1
  | z :: _ => s1.askZone z

/-- A window is lost: WAITING, its times forgotten, and the sequencer raises the defer count, at most to 15
(R129 to R131). -/
def State.loseWindow (s : State) (z : Nat) : State :=
  (s.setOwn z .waiting).mapActive fun p => { p with defer := min (p.defer + 1) Config.maxDefer }

/-- A zone in WAITING with no blocking entry left asks again (R132). -/
def State.retest (s : State) (z : Nat) : State :=
  if s.own z = .waiting ∧ s.blocked z = false then s.askZone z else s

/-- Entry to MUTED: every own state IDLE with no DROP, the claim job removed, the peer lists kept (R142). -/
def State.claimsMuted (s : State) : State :=
  s.setClaims { zones := s.claims.zones.map fun c => { c with own := .idle }, job := none }

/-- The zone's list without a unit's entries that satisfy a test; a removal prompts the test of R132. -/
def State.removeEntry (s : State) (z unit : Nat) (gone : PeerClaim → Bool) : State :=
  if (s.peersOf z).any (fun e => e.unit == unit && gone e) then
    (s.mapZone z fun c => { c with peers := c.peers.filter fun e => !(e.unit == unit && gone e) }).retest z
  else s

/-- SECOND_ASK_TIME's act: a zone still ASKING whose second-ask time is reached offers a second ASK (R128). -/
def State.secondAsk (s : State) (z : Nat) : State :=
  match s.own z with
  | .asking (some t) e => if s.reached t then (s.setOwn z (.asking none e)).offer (s.askBody z) else s
  | _ => s

/-- REFRESH_TIME's act: a HELD zone whose refresh time is reached offers a HOLD (R133). -/
def State.refreshZone (s : State) (z : Nat) : State :=
  match s.own z with
  | .held t => if s.reached t then s.holdZone z else s
  | _ => s

/-- SECOND_ASK_TIME (R128). -/
def execSecondAskTime (zone : Nat) (s : State) : Host.Outcome State Fault Refusal :=
  .next (if s.running then s.secondAsk zone else s)

/-- REFRESH_TIME (R133). -/
def execRefreshTime (zone : Nat) (s : State) : Host.Outcome State Fault Refusal :=
  .next (if s.running then s.refreshZone zone else s)

/-- PEER_ENTRY_EXPIRY: the entry of a unit is removed at its expiry, which may return a WAITING zone to
ASKING (R126, R132). -/
def execPeerEntryExpiry (zone unit : Nat) (s : State) : Host.Outcome State Fault Refusal :=
  .next (if s.receiving then s.removeEntry zone unit (fun e => !s.live e) else s)

end Sys2Proof.Machine
end

