-- ==== Sys2Proof/Machine/Sequencer.lean ====
section
/-! DEFINITION. The program sequencer (chapter 9): admission to the queue, take-up, the timing guard, VERIFY,
step ends, give-backs and endings. -/
namespace Sys2Proof.Machine

/-! ### End statuses (R162) -/

def endOf (kind : EndKind) (reason : Option Reason) (step : Nat) : EndStatus :=
  { kind := kind, reason := reason, step := step, qualifier := none, condition := 0, point := 0, node := 0 }

/-- REFUSED with the evaluator's full result (R162). -/
def refusedEnd (r : RefusalRecord) (step : Nat) : EndStatus :=
  { kind := .refused, reason := some r.reason, step := step, qualifier := some r.qualifier, condition := r.condition,
    point := r.point, node := r.node }

/-- REFUSED(CLAIM_TIMEOUT), always UNSURE (R140). -/
def claimTimeoutEnd (step : Nat) : EndStatus :=
  { kind := .refused, reason := some .claimTimeout, step := step, qualifier := some .unsure, condition := 0, point := 0,
    node := 0 }

/-- The end status of a pending stop (R155). -/
def stopEnd (c : StopCause) (step : Nat) : EndStatus :=
  match c with
  | .cancel => endOf .cancelled none step
  | .localTakeover => endOf .aborted (some .localTakeover) step
  | .linkMuted => endOf .aborted (some .linkMuted) step
  | .claimClash => endOf .aborted (some .claimClash) step

/-- The reason of a failed drive (R162). -/
def FaultKind.reason : FaultKind → Option Reason
  | .travelTimeout => some .travelTimeout
  | .wrongEnd => some .wrongEnd
  | .badPosition => some .badPosition
  | .claimClash => some .claimClash
  | .stuckIntermediate => none
  | .linkContention => none
  | .echoLoss => none
  | .duplicateUnit => none

/-! ### Small acts on the active record -/

def State.setPhase (s : State) (ph : Phase) : State := s.mapActive fun p => { p with phase := ph }

/-- The step index of the active program; 0 with none. -/
def State.stepIndex (s : State) : Nat := (s.seq.active.map (·.stepIndex)).getD 0

/-- The handle of the active program; 0 with none. -/
def State.activeHandle (s : State) : Nat := (s.seq.active.map (·.handle)).getD 0

/-- The active program is in DRIVING. -/
def State.driving (s : State) : Bool := (s.seq.active.map fun p => p.phase == .driving).getD false

/-- The active program ends (R162 steps 1 to 4): FINISHED, its zones dropped, PROGRAM_END, the record removed. -/
def State.endActive (s : State) (e : EndStatus) : State :=
  match s.seq.active with
  | none => s
  | some p =>
    let s1 := s.mapActive fun p => { p with phase := .finished, ending := some e }
    let s2 := (State.dropZones p.zones s1).setJob none
    let s3 := (s2.mapActive fun p => { p with defer := 0 }).event (.programEnd p.handle e)
    s3.setSeq { s3.seq with active := none }

/-- Queued programs end at step 0, oldest first (R159, R160). -/
def endQueued (reason : Reason) : List Program → State → State
  | [], s => s
  | p :: rest, s => endQueued reason rest (s.event (.programEnd p.handle (endOf .aborted (some reason) 0)))

/-- Every queued program ends, and the queue is emptied (R159, R160). -/
def State.abortQueue (s : State) (reason : Reason) : State :=
  let s1 := endQueued reason s.seq.queue s
  s1.setSeq { s1.seq with queue := [] }

/-! ### The timing guard (R150) -/

/-- The times the guard's conditions name for a switch: its completion time plus its recovery time, and each
required zone's movement time plus the settle time (R150). -/
def State.guardTimes (s : State) (id : Nat) : List Time :=
  ((s.localPoint? id).bind (·.completion)).toList.map (fun t => after t (s.recovery id)) ++
    (s.ctl.model.required id).filterMap fun z => (s.move? z).map fun t => after t s.params.settle

/-- None if the guard is satisfied, else the release time: the latest of the times named (R150, log 21). -/
def State.guardRelease (s : State) (id : Nat) : Option Time :=
  match s.guardTimes id with
  | [] => none
  | t :: ts => if (t :: ts).all s.reached then none else some (ts.foldl laterOf t)

/-- The guard deadline of a step that enters GUARD now (R150). -/
def State.guardDeadline (s : State) : Time := after s.now (1000 * s.params.guardPatience)

/-! ### VERIFY and the steps that follow (R152, R153, R155, R156) -/

/-- A permitted step enters DRIVING and its drive order goes out in the same act (R152). -/
def State.beginDrive (s : State) (st : Step) : State :=
  (s.mapActive fun p => { p with phase := .driving, pendingStop := none, pendingYield := none }).driveOrder
    st.switch st.target s.activeHandle s.stepIndex

/-- The active program's step in GUARD and those after it, from the guard's test on (R150, R152). A step that
VERIFY finds at its target completes ALREADY, and the next is taken up in the same act (R153, R155, R156). -/
def runSteps : List Step → State → State
  | [], s => s
  | st :: rest, s =>
    match s.guardRelease st.switch with
    | some t =>
      s.mapActive fun p =>
        match p.phase with
        | .guard _ d => { p with phase := .guard t d }
        | _ => p
    | none =>
      match s.evaluate st.switch st.target with
      | .permit false => s.beginDrive st
      | .refuse r => s.endActive (refusedEnd r s.stepIndex)
      | .permit true =>
        let s1 := s.event (.stepComplete s.activeHandle s.stepIndex st.switch .already)
        match rest with
        | [] => s1.endActive (endOf .done none s1.stepIndex)
        | nxt :: _ =>
          let s2 := s1.mapActive fun p => { p with stepIndex := p.stepIndex + 1 }
          match s2.evaluate nxt.switch nxt.target with
          | .refuse r => s2.endActive (refusedEnd r s2.stepIndex)
          | .permit _ => runSteps rest (s2.setPhase (.guard s2.now s2.guardDeadline))

/-- The steps of the active program from the one in hand on. -/
def State.stepsLeft (s : State) : List Step :=
  match s.seq.active with
  | some p => p.steps.drop (p.stepIndex - 1)
  | none => []

/-- The guard of the step in hand is tested (R150). -/
def State.testGuard (s : State) : State := runSteps s.stepsLeft s

/-- The step in hand enters GUARD: the guard deadline is set and the guard tested (R150). -/
def State.enterGuard (s : State) : State := (s.setPhase (.guard s.now s.guardDeadline)).testGuard

/-! ### Take-up (R148, R149) -/

/-- A permitted first step: GUARD with no zones to claim, else CLAIMING with the claim order (R148, R149). -/
def State.startClaiming (s : State) (zones : List Nat) : State :=
  if zones = [] then s.enterGuard
  else (s.mapActive fun p => { p with phase := .claiming, claimStart := some s.now }).claimOrder zones

/-- A program taken up: active at step 1, its first step prechecked (R148). -/
def State.takeUpOne (s : State) (p : Program) (rest : List Program) : State :=
  let s1 := s.setSeq { s.seq with queue := rest, active := some { p with stepIndex := 1 } }
  match p.steps with
  | [] => s1.endActive (endOf .done none 0)
  | st :: _ =>
    match s1.evaluate st.switch st.target with
    | .refuse r => s1.endActive (refusedEnd r 1)
    | .permit _ => s1.startClaiming p.zones

/-- Programs taken up from the head of a queue until one stays active or none is left (R148, R162 step 5). -/
def takeUp : List Program → State → State
  | [], s => s
  | p :: rest, s => if s.seq.active.isSome then s else takeUp rest (s.takeUpOne p rest)

/-- With no active program, the head of the queue is taken up (R148, R162 step 5). -/
def State.takeUpNext (s : State) : State := takeUp s.seq.queue s

/-- The active program ends, and the next is taken up (R162). -/
def State.finish (s : State) (e : EndStatus) : State := (s.endActive e).takeUpNext

/-! ### Admission (R145, R146) -/

/-- The handle after a handle: 255 is followed by 1 (R146). -/
def handleAfter (h : Nat) : Nat := if h ≥ 255 then 1 else h + 1

def State.handlesInUse (s : State) : List Nat := (s.seq.queue ++ s.seq.active.toList).map (·.handle)

/-- The first handle from `h` on that no program bears, in so many tries (R146). -/
def freeHandle (used : List Nat) : Nat → Nat → Nat
  | 0, h => h
  | n + 1, h => if used.contains h then freeHandle used n (handleAfter h) else h

/-- The handle the next program gets: found within six tries (R146). -/
def State.newHandle (s : State) : Nat := freeHandle s.handlesInUse 6 s.seq.nextHandle

/-- A new program record (R145, R147). -/
def newProgram (handle urgency : Nat) (steps : List Step) (zones : List Nat) : Program :=
  { handle := handle, urgency := urgency, steps := steps, stepIndex := 0, phase := .queued, zones := zones, defer := 0,
    claimStart := none, pendingStop := none, pendingYield := none, clashOffered := false, ending := none }

/-- A program put at the tail of the queue, and taken up if none is active (R145, R148). -/
def State.enqueue (s : State) (urgency : Nat) (steps : List Step) : State :=
  let p := newProgram s.newHandle urgency steps (s.ctl.model.requiredUnion (steps.map (·.switch)))
  (s.setSeq { s.seq with queue := s.seq.queue ++ [p], nextHandle := handleAfter s.newHandle }).takeUpNext

/-! ### Give-back (R136, R161) -/

/-- The claim deadline of the active program has been reached (R140). -/
def State.claimDeadlineReached (s : State) : Bool :=
  match s.seq.active.bind (·.claimStart) with
  | some t => s.reached (after t (1000 * s.params.claimPatience))
  | none => false

/-- A give-back: the zones are dropped, CLAIM_YIELDED is raised, the lowest zone is asked for again, and the
state becomes CLAIMING (R136, R161). -/
def State.giveBack (s : State) (cause : YieldCause) (y : YieldFrom) : State :=
  match s.seq.active with
  | none => s
  | some p =>
    let s1 := State.dropZones p.zones s
    let s2 := s1.event (.claimYielded y.zone cause y.unit p.handle)
    (s2.claimOrder p.zones).setPhase .claiming

/-- A give-back with the claim deadline already reached ends the program in the same act (R140, R161). -/
def State.yieldZones (s : State) (cause : YieldCause) (y : YieldFrom) : State :=
  let s1 := s.giveBack cause y
  if s1.claimDeadlineReached then s1.finish (claimTimeoutEnd s1.stepIndex) else s1

/-! ### Step ends (R155, R156) -/

/-- The flags of a step cleared (R155). -/
def Program.clearFlags (p : Program) : Program := { p with pendingStop := none, pendingYield := none, clashOffered := false }

/-- The next step taken up: its precheck, then a give-back for a pending yield, or GUARD (R156). -/
def State.nextStep (s : State) (yield : Option YieldFrom) : State :=
  let s1 := s.mapActive fun p => { p.clearFlags with stepIndex := p.stepIndex + 1 }
  match s1.stepsLeft with
  | [] => s1
  | st :: _ =>
    match s1.evaluate st.switch st.target with
    | .refuse r => s1.finish (refusedEnd r s1.stepIndex)
    | .permit _ =>
      match yield with
      | some y => s1.yieldZones .yieldRequest y
      | none => s1.enterGuard.takeUpNext

/-- The end of a driven step of the active program `p` (R155). -/
def State.stepEnd (s : State) (p : Program) (r : DriveReport) : State :=
  let s1 := match r, p.steps[p.stepIndex - 1]? with
    | .completed, some st => s.event (.stepComplete p.handle p.stepIndex st.switch .driven)
    | _, _ => s
  match p.pendingStop with
  | some c => s1.finish (stopEnd c p.stepIndex)
  | none =>
    match r with
    | .failed k => s1.finish (endOf .failed k.reason p.stepIndex)
    | .completed =>
      if p.stepIndex ≥ p.steps.length then s1.finish (endOf .done none p.stepIndex)
      else s1.nextStep p.pendingYield

/-- The sequencer takes the report of a drive's end as an event of its own (R154, R155). -/
def State.takeReport (s : State) : State :=
  match s.bay.report, s.seq.active with
  | some r, some p =>
    if p.phase = .driving then (s.setBay { s.bay with report := none }).stepEnd p r else s
  | _, _ => s

/-! ### Stops (R157, R159, R160) -/

/-- A stop cause for the active program: pending while DRIVING if none is yet, else it ends at once
(R154, R157, R159, R160). The caller takes up the next program where there may be one. -/
def State.stopActive (s : State) (c : StopCause) : State :=
  match s.seq.active with
  | none => s
  | some p =>
    if p.phase = .driving then s.mapActive fun p => { p with pendingStop := some (p.pendingStop.getD c) }
    else s.endActive (stopEnd c p.stepIndex)

/-- The selector has turned to LOCAL (R159). -/
def State.localTakeover (s : State) : State := (s.stopActive .localTakeover).abortQueue .localTakeover

/-- The link has entered MUTED (R160). -/
def State.programsMuted (s : State) : State := (s.stopActive .linkMuted).abortQueue .linkMuted

/-- A program with a handle is queued or active. -/
def State.knowsHandle (s : State) (h : Nat) : Bool := s.handlesInUse.contains h

/-- CANCEL of a handle that a queued or active program bears (R157). -/
def State.cancel (s : State) (h : Nat) : State :=
  if s.activeHandle = h ∧ s.seq.active.isSome = true then (s.stopActive .cancel).takeUpNext
  else
    let s1 := s.setSeq { s.seq with queue := s.seq.queue.filter fun p => p.handle != h }
    s1.event (.programEnd h (endOf .cancelled none 0))

/-! ### Yields and split claims reported (R135, R137 to R139) -/

/-- A yield request reported: given back at once, or pending while DRIVING (R135, R161). -/
def State.yieldReported (s : State) (y : YieldFrom) : State :=
  if s.driving then s.mapActive fun p => { p with pendingYield := some (p.pendingYield.getD y) }
  else s.yieldZones .yieldRequest y

/-- What the capture takes for a lost split claim (R139, R173). -/
def State.clashCapture (s : State) (z : Nat) : Capture :=
  { kind := .claimClash, time := s.now, subject := z, handle := s.activeHandle, step := s.stepIndex,
    stepState := some .driving, value := none, raw := none, zones := s.heldZones }

/-- The first split claim lost during a drive is offered and raised as a fault (R139). -/
def State.offerClash (s : State) (z : Nat) : State :=
  if (s.seq.active.map (·.clashOffered)).getD false then s
  else
    let s1 := s.mapActive fun p => { p with clashOffered := true }
    (s1.offerCapture (s1.clashCapture z)).event (.fault z .claimClash)

/-- A lost split claim reported (R138, R139). -/
def State.splitLost (s : State) (y : YieldFrom) : State :=
  if s.driving then (s.offerClash y.zone).stopActive .claimClash
  else s.yieldZones .splitClaim y

/-! ### Windows (R130, R133) -/

/-- The next zone the claim job asks for: the first of its list not HELD (R127). -/
def State.nextZone (s : State) : Option Nat := (s.claims.job.getD []).find? fun z => !(s.own z).isHeld

/-- A zone becomes HELD: a HOLD is offered, and the job asks for its next zone or reports that all are held,
which takes the program to GUARD (R133, R149). -/
def State.winZone (s : State) (z : Nat) : State :=
  let s1 := s.holdZone z
  match s1.nextZone with
  | some n => s1.askZone n
  | none => s1.enterGuard.takeUpNext

/-- The window end of a zone in ASKING is reached (R130). -/
def State.closeWindow (s : State) (z : Nat) : State :=
  match s.own z with
  | .asking _ e => if s.reached e then (if s.blocked z then s.loseWindow z else s.winZone z) else s
  | _ => s

/-! ### The commands -/

/-- The active program is CLAIMING and its claim deadline is reached (R140). -/
def State.claimExpiry (s : State) : State :=
  match s.seq.active with
  | some p =>
    if p.phase = .claiming ∧ s.claimDeadlineReached = true then s.finish (claimTimeoutEnd p.stepIndex) else s
  | none => s

/-- The release time of the step in GUARD is reached: its guard is tested again (R150). -/
def State.guardRetest (s : State) : State :=
  match s.seq.active with
  | some p =>
    match p.phase with
    | .guard t _ => if s.reached t then s.testGuard.takeUpNext else s
    | _ => s
  | none => s

/-- The guard deadline is reached with the step still in GUARD (R151). -/
def State.guardExpiry (s : State) : State :=
  match s.seq.active with
  | some p =>
    match p.phase with
    | .guard _ d => if s.reached d then s.finish (endOf .failed (some .guardTimeout) p.stepIndex) else s
    | _ => s
  | none => s

/-- DRIVE_END_REPORT (R154, R155). -/
def execDriveEndReport (s : State) : Host.Outcome State Fault Refusal :=
  .next (if s.running then s.takeReport else s)

/-- CLAIM_DEADLINE (R140). -/
def execClaimDeadline (s : State) : Host.Outcome State Fault Refusal :=
  .next (if s.running then s.claimExpiry else s)

/-- GUARD_RELEASE_TIME (R150). -/
def execGuardReleaseTime (s : State) : Host.Outcome State Fault Refusal :=
  .next (if s.running then s.guardRetest else s)

/-- GUARD_DEADLINE (R151). -/
def execGuardDeadline (s : State) : Host.Outcome State Fault Refusal :=
  .next (if s.running then s.guardExpiry else s)

/-- WINDOW_END (R130). -/
def execWindowEnd (zone : Nat) (s : State) : Host.Outcome State Fault Refusal :=
  .next (if s.running then s.closeWindow zone else s)

end Sys2Proof.Machine
end

