-- ==== Sys2Proof/Machine/ClaimFrames.lean ====
section
/-! DEFINITION. Claim frames heard (R123, R124) and what they do to the unit's own claim on their zone (R129,
R132 to R135, R137). -/
namespace Sys2Proof.Machine

/-- A claim frame's fields pass the controller's checks (R123). -/
def State.claimFieldsOk (s : State) (z urgency defer : Nat) : Bool :=
  (s.zone? z).isSome && decide (urgency ≤ 3) && decide (defer ≤ Config.maxDefer)

/-- The entry an ASK or HOLD makes (R124). -/
def claimEntry (unit : Nat) (kind : EntryKind) (urgency defer : Nat) (expiry : Time) : PeerClaim :=
  { unit := unit, kind := kind, urgency := urgency, defer := defer, expiry := expiry }

/-- The list of a zone after an ASK or HOLD (R124, R125). -/
def State.enter (s : State) (z : Nat) (e : PeerClaim) : State :=
  s.mapZone z fun c => { c with peers := (enterClaim s.now s.live c.peers e).1 }

/-- Whether an ASK or HOLD removes or replaces an entry in a way that prompts the test of R132. -/
def State.entryPrompts (s : State) (z : Nat) (e : PeerClaim) : Bool := (enterClaim s.now s.live (s.peersOf z) e).2

/-- In WAITING, the test of R132 if the frame prompts it. -/
def State.promptRetest (s : State) (z : Nat) (prompt : Bool) : State := if prompt then s.retest z else s

/-- An ASK acts on the unit's own claim (R129, R132, R133). -/
def State.askHeard (s : State) (z : Nat) (e : PeerClaim) (prompt : Bool) : State :=
  match s.own z with
  | .idle => s
  | .asking _ _ => if e.rank.better s.ownRank then s.loseWindow z else s
  | .waiting => s.promptRetest z prompt
  | .held _ => s.holdZone z

/-- An ASK that has passed the revision check (R123, R124). -/
def State.takeAsk (s : State) (sender z urgency defer lifetime : Nat) : State :=
  if s.claimFieldsOk z urgency defer then
    let e := claimEntry sender .ask urgency defer (after s.now (clampAsk lifetime))
    (s.enter z e).askHeard z e (s.entryPrompts z e)
  else s

/-- The yield rule: a zone in WAITING whose program has urgency 2 or 3 asks a holder of lower urgency to
yield (R134). -/
def State.yieldRule (s : State) (z : Nat) (e : PeerClaim) : State :=
  if s.own z = .waiting ∧ 2 ≤ s.ownUrgency ∧ e.urgency < s.ownUrgency then s.offer (.yieldRequest z s.ownUrgency) else s

/-- A HOLD acts on the unit's own claim (R129, R132, R134, R137). -/
def State.holdHeard (s : State) (z : Nat) (e : PeerClaim) (prompt : Bool) : State :=
  match s.own z with
  | .idle => s
  | .asking _ _ => (s.loseWindow z).yieldRule z e
  | .waiting => (s.promptRetest z prompt).yieldRule z e
  | .held _ => if s.ownRank.better e.rank then s.holdZone z else s.splitLost { zone := z, unit := e.unit }

/-- A HOLD that has passed the revision check (R123, R124). -/
def State.takeHold (s : State) (sender z urgency defer holdMs : Nat) : State :=
  if s.claimFieldsOk z urgency defer then
    let e := claimEntry sender .hold urgency defer (after s.now (clampClaimHold holdMs))
    (s.enter z e).holdHeard z e (s.entryPrompts z e)
  else s

/-- A DROP that has passed the revision check: the sender's entry is removed (R124, R132). -/
def State.takeDrop (s : State) (sender z : Nat) : State := s.removeEntry z sender fun _ => true

/-- A YIELD_REQUEST that has passed the revision check (R123, R135). -/
def State.takeYield (s : State) (sender z urgency : Nat) : State :=
  if s.claimFieldsOk z urgency 0 = true ∧ (s.own z).isHeld = true ∧ s.ownUrgency < urgency then
    s.yieldReported { zone := z, unit := sender }
  else s

end Sys2Proof.Machine
end

