-- ==== Sys2Proof/Machine/Link.lean ====
section
/-! DEFINITION. The yard link controller (chapter 6): entering MUTED, the medium, attempts and their outcomes,
probes, duplicates and the receive path; and the selector's turn, which needs the sequencer. -/
namespace Sys2Proof.Machine

/-! ### Muting (R98, R99) -/

/-- What the capture takes for a link fault (R99 step 3, R163, R173). -/
def State.linkCapture (s : State) (kind : FaultKind) : Capture :=
  { kind := kind, time := s.now, subject := s.unit, handle := s.activeHandle, step := s.stepIndex,
    stepState := s.seq.active.map (·.phase.name), value := none, raw := none, zones := s.heldZones }

/-- The link and the transmitter on entry to MUTED (R99 steps 1 and 2). -/
def Link.muted (l : Link) (dup : Bool) : Link :=
  { l with txList := [], inHand := none, stage := .idle, mode := .muted, dup := l.dup || dup }

/-- The probe timer as entry to MUTED leaves it: running for 1 000 ms in AUTO with the duplicate mark clear,
else stopped (R99 step 7, R101; DEDUCED, log 25). -/
def State.armProbe (s : State) : State :=
  s.setLink { s.link with
    probeTimer := if s.params.recovery = .auto ∧ s.link.dup = false then some (after s.now Config.probeMs) else none }

/-- The link enters MUTED with a fault (R99). -/
def State.enterMuted (s : State) (kind : FaultKind) : State :=
  let s1 := s.setLink (s.link.muted (kind == .duplicateUnit))
  let s2 := s1.offerCapture (s1.linkCapture kind)
  let s3 := (s2.event (.fault s.unit kind)).event (.linkMuted s.unit kind)
  s3.claimsMuted.programsMuted.stopSchedule.armProbe

/-- The fault of a dropped frame (R98). -/
def InHand.fault (h : InHand) : FaultKind := if h.allLost then .echoLoss else .linkContention

/-- A probe dropped after eight attempts (R103). In AUTO the publisher's stage stays OFFERED (R117). DEDUCED (log 39):
in ON_CLEAR the link is muted again by R99, whose step 6 makes the stage STOPPED by the first bullet of R117, though
the fourth bullet has a new request find it still OFFERED. -/
def State.probeDropped (s : State) (h : InHand) : State :=
  match s.params.recovery with
  | .auto =>
    s.setLink { s.link with inHand := none, stage := .idle, probeTimer := some (after s.now Config.probeMs) }
  | .onClear => s.enterMuted h.fault

/-- A frame dropped after its eighth unsuccessful attempt (R98): in ACTIVE the link is muted, in MUTED the
frame is a probe. -/
def State.dropFrame (s : State) (h : InHand) : State :=
  match s.link.mode with
  | .active => s.enterMuted h.fault
  | .muted => s.probeDropped h

/-! ### Attempts (R94 to R97) -/

/-- An attempt of this unit is in progress (R96). -/
def TxStage.attempting : TxStage → Bool
  | .sending _ => true
  | .echoWait _ => true
  | .idle => false
  | .deferring _ => false

/-- The needed spell of idle medium is complete: the attempt begins (R94). How long the frame takes to send
is a free value (log 7). A frame of an orderly stop whose 5 ms have passed, but for which no STOP_FRAME_SKIP has been
taken, has its attempt (R106; DESIGN CHOICE, log 35). -/
def State.beginAttempt (s : State) : State :=
  match s.link.inHand, s.link.stage with
  | some h, .deferring (some t) =>
    if t + neededSpell s.unit h.count ≤ s.micros then
      s.setLink { s.link with stage := .sending (s.micros + Config.sendTimeUs h.frame.length) }
    else s
  | _, _ => s

/-- An attempt ends unsuccessfully: the count rises, a collision clears the all-lost flag, and the frame
defers again or is dropped (R97, R98). -/
def State.attemptFailed (s : State) (collided : Bool) : State :=
  match s.link.inHand with
  | none => s
  | some h =>
    let h1 := { h with count := h.count + 1, allLost := h.allLost && !collided }
    if h1.count < Config.maxAttempts then
      s.setLink { s.link with inHand := some h1, stage := .deferring s.spellStart }
    else s.dropFrame h1

/-- What the publisher is told of a SENT frame: nothing but of a bulletin (R97, R112, R117, R103). -/
def State.frameSent (s : State) (h : InHand) : State :=
  let s1 := s.setLink { s.link with inHand := none, stage := .idle }
  match s.link.mode, h.frame.body with
  | .active, .bulletin n r _ _ => (s1.publishSent n r).takeInHand
  | .muted, .bulletin n _ _ _ =>
    ((s1.setLink { s1.link with mode := .active, probeTimer := none }).event (.linkRestored s.unit)).probeSent n
  | _, _ => s1.takeInHand

/-- A whole echo has matched: the attempt is SENT (R96, R97). -/
def State.attemptSent (s : State) : State :=
  match s.link.inHand with
  | none => s
  | some h => s.frameSent h

/-- The last byte has been sent: from here the whole echo can match (R97's table of stages). -/
def TxStage.awaiting : TxStage → Bool
  | .echoWait _ => true
  | .idle => false
  | .deferring _ => false
  | .sending _ => false

/-- 200 µs have passed since the last byte with the echo incomplete (R96). -/
def State.echoTimedOut (s : State) : Bool :=
  match s.link.stage with
  | .echoWait t => decide (t + Config.echoTimeoutUs ≤ s.micros)
  | _ => false

/-! ### The medium (R94) -/

/-- A spell of idle medium as a turn of the medium leaves it: none while busy, from now when idle (R94). -/
def TxStage.turn (st : TxStage) (since : Option Nat) : TxStage :=
  match st with
  | .deferring _ => .deferring since
  | st => st

/-- The medium turns busy: a reception begins, and a spell being counted stops (R94, R105 step 1, log 13). -/
def State.mediumTurnsBusy (s : State) : State :=
  if s.link.mediumBusy then s
  else
    s.setLink { s.link with mediumBusy := true, rxEcho := s.link.stage.attempting, stage := s.link.stage.turn none }

/-- The medium turns idle: the spell is counted from now (R94). A medium idle already keeps its spell. -/
def State.mediumTurnsIdle (s : State) : State :=
  if s.link.mediumBusy then
    s.setLink { s.link with mediumBusy := false, stage := s.link.stage.turn (some s.micros) }
  else s

/-! ### The receive path (R104, R105, R180) -/

/-- A duplicate frame (R104). -/
def State.duplicate (s : State) : State := if s.link.dup then s else s.enterMuted .duplicateUnit

/-- A reception is the echo of this unit's own attempt (R96, R105 step 1, log 13). -/
def State.isEcho (s : State) : Bool := s.link.rxEcho || s.link.stage.attempting

/-- The item count a bulletin may have (R180); the other frames' lengths are their types'. -/
def FrameBody.lengthOk : FrameBody → Bool
  | .bulletin _ _ _ items => decide (items.length ≤ Config.maxItems)
  | .ask _ _ _ _ => true
  | .hold _ _ _ _ => true
  | .drop _ => true
  | .yieldRequest _ _ => true

/-- A frame of this unit's yard revision goes on by its type (R105 step 6). -/
def State.dispatch (s : State) (f : Frame) : State :=
  match f.body with
  | .bulletin n r hold items => s.takeBulletin f.sender n r hold items
  | .ask z u d life => s.takeAsk f.sender z u d life
  | .hold z u d ms => s.takeHold f.sender z u d ms
  | .drop z => s.takeDrop f.sender z
  | .yieldRequest z u => s.takeYield f.sender z u

/-- A frame whose reception has ended, through the steps of R105; frames are received in QUIET and RUN until
an orderly stop begins. -/
def State.receive (s : State) (f : Frame) : State :=
  if s.receiving = false ∨ s.isEcho = true ∨ f.body.lengthOk = false then s
  else if f.sender = 0 ∨ Config.maxUnit < f.sender then s
  else if f.sender = s.unit then s.duplicate
  else
    let s1 := s.revisionCheck f.sender f.revision
    if f.revision = s.ctl.model.revision then s1.dispatch f else s1

/-! ### Probes (R101, R102) -/

/-- The probe timer expires with no probe in hand (R101). -/
def State.probeExpiry (s : State) : State :=
  match s.link.probeTimer with
  | some t => if s.link.mode = .muted ∧ s.link.inHand = none ∧ s.reached t = true then s.startProbe else s
  | none => s

/-- CLEAR_FAULT(link)'s effect (R102). -/
def State.clearLink (s : State) : State :=
  if s.link.mode = .muted ∧ s.link.inHand = none then (s.setLink { s.link with dup := false }).startProbe else s

/-! ### The selector (R23, R159) -/

/-- The selector's filter timer expires: a changed selector state raises an event and is told to the
sequencer (R19, R23, R24). -/
def State.filterSelector (s : State) : State :=
  match s.bay.selector.pending with
  | none => s
  | some (r, since) =>
    if s.reached (after since s.params.filterTime) then
      let s1 := s.setBay { s.bay with selector := { value := some r, pending := none } }
      if r = s.bay.selectorState then s1
      else
        let s2 := s1.event (.selectorChanged r)
        if r = .atBay ∧ s.running = true then s2.localTakeover else s2
    else s

/-! ### The commands -/

/-- FILTER_TIMER_EXPIRY (R19, R23, R25). -/
def execFilterTimerExpiry (input : Input) (s : State) : Host.Outcome State Fault Refusal :=
  .next (if s.working then
    (match input with
      | .point id => s.filterPoint id
      | .selector => s.filterSelector)
    else s)

/-- BULLETIN heard (R45, R105). -/
def execBulletin (sender revision : Nat) (stateNo : StateNo) (repeatNo : Byte) (holdMs : Nat) (items : List Item)
    (s : State) : Host.Outcome State Fault Refusal :=
  .next (s.receive { sender := sender, revision := revision, body := .bulletin stateNo repeatNo holdMs items })

/-- ASK heard (R124, R105). -/
def execAsk (sender revision zone urgency defer lifetime : Nat) (s : State) : Host.Outcome State Fault Refusal :=
  .next (s.receive { sender := sender, revision := revision, body := .ask zone urgency defer lifetime })

/-- HOLD heard (R124, R105). -/
def execHold (sender revision zone urgency defer holdMs : Nat) (s : State) : Host.Outcome State Fault Refusal :=
  .next (s.receive { sender := sender, revision := revision, body := .hold zone urgency defer holdMs })

/-- DROP heard (R124, R105). -/
def execDrop (sender revision zone : Nat) (s : State) : Host.Outcome State Fault Refusal :=
  .next (s.receive { sender := sender, revision := revision, body := .drop zone })

/-- YIELD_REQUEST heard (R135, R105). -/
def execYieldRequest (sender revision zone urgency : Nat) (s : State) : Host.Outcome State Fault Refusal :=
  .next (s.receive { sender := sender, revision := revision, body := .yieldRequest zone urgency })

/-- BULLETIN_DUE (R113). -/
def execBulletinDue (s : State) : Host.Outcome State Fault Refusal :=
  .next (match s.pub.stage with
    | .due t => if s.running = true ∧ s.reached t = true then s.publishDue else s
    | _ => s)

/-- MEDIUM_BUSY (R94). The medium's level is followed in every mode. -/
def execMediumBusy (s : State) : Host.Outcome State Fault Refusal := .next s.mediumTurnsBusy

/-- MEDIUM_IDLE (R94). -/
def execMediumIdle (s : State) : Host.Outcome State Fault Refusal := .next s.mediumTurnsIdle

/-- IDLE_SPELL_COMPLETE (R94, R106). -/
def execIdleSpellComplete (s : State) : Host.Outcome State Fault Refusal :=
  .next (if s.supplied = true ∧ s.ctl.mode = .run then s.beginAttempt else s)

/-- ECHO_MATCHED: every byte of the frame has been echoed, so the last has been sent (R96, R97, R103). Later than 200 µs
after the last byte it still counts as SENT while no ECHO_TIMEOUT has been taken (DESIGN CHOICE, log 35). -/
def execEchoMatched (s : State) : Host.Outcome State Fault Refusal :=
  .next (if s.running = true ∧ s.link.stage.awaiting = true then s.attemptSent else s)

/-- ECHO_MISMATCH (R96, R97). -/
def execEchoMismatch (s : State) : Host.Outcome State Fault Refusal :=
  .next (if s.running = true ∧ s.link.stage.attempting = true then s.attemptFailed true else s)

/-- ECHO_TIMEOUT (R96, R97). -/
def execEchoTimeout (s : State) : Host.Outcome State Fault Refusal :=
  .next (if s.running = true ∧ s.echoTimedOut = true then s.attemptFailed false else s)

/-- PROBE_TIMER_EXPIRY (R101). -/
def execProbeTimerExpiry (s : State) : Host.Outcome State Fault Refusal :=
  .next (if s.running then s.probeExpiry else s)

end Sys2Proof.Machine
end

