-- ==== Sys2Proof/Machine/Codec.lean ====
section
/-! DEFINITION. The byte layouts of chapter 12: the CRC, the numbers of several bytes, the codes of section 12.5,
frames, request records, replies, events and the capture. -/
namespace Sys2Proof.Machine

/-! ### Numbers and the CRC (R179) -/

def byteOf (n : Nat) : Byte := BitVec.ofNat 8 n
def enc16 (n : Nat) : List Byte := [byteOf (n / 256), byteOf n]
def enc32 (t : Time) : List Byte :=
  [byteOf (t.toNat / 16777216), byteOf (t.toNat / 65536), byteOf (t.toNat / 256), byteOf t.toNat]

/-- Two bytes, most significant first (R179). -/
def dec16 (hi lo : Byte) : Nat := hi.toNat * 256 + lo.toNat

/-- One bit shifted into the CRC register, polynomial 0x1021 (R11, R179). -/
def crcBit (r : BitVec 16) : BitVec 16 := if r.getLsbD 15 then (r <<< 1) ^^^ 0x1021#16 else r <<< 1

/-- One byte taken into the CRC register, most significant bit first (R179). -/
def crcByte (r : BitVec 16) (b : Byte) : BitVec 16 :=
  crcBit (crcBit (crcBit (crcBit (crcBit (crcBit (crcBit (crcBit (r ^^^ (b.zeroExtend 16 <<< 8)))))))))

/-- CRC-16 over bytes: initial value all ones, no final inversion (R11, R179). -/
def crc16 (bs : List Byte) : BitVec 16 := bs.foldl crcByte 0xFFFF#16

/-- Bytes with their CRC at the end, most significant byte first (R179). -/
def sealCrc (bs : List Byte) : List Byte := bs ++ enc16 (crc16 bs).toNat

/-- The last two of some bytes are the CRC of those before them (R179). -/
def crcGood (bs : List Byte) : Bool :=
  let n := bs.length - 2
  decide (2 ≤ bs.length) && bs.drop n == enc16 (crc16 (bs.take n)).toNat

/-! ### Codes (section 12.5): 1, 2, 3 … in the order given, 0 for none -/

def bitOf (b : Bool) : Nat := if b then 1 else 0

def UnitMode.code : UnitMode → Nat
  | .loading => 1 | .quiet => 2 | .run => 3 | .halted => 4
def HaltCause.code : HaltCause → Nat
  | .configCrc => 1 | .configInvalid _ => 2 | .haltRequest => 3
/-- The check number READ_STATUS gives beside CONFIG_INVALID (R169). -/
def HaltCause.check : HaltCause → Nat
  | .configCrc => 0 | .configInvalid n => n | .haltRequest => 0
def StartCause.code : StartCause → Nat
  | .powerOn => 1 | .restart => 2
def LinkMode.code : LinkMode → Nat
  | .active => 1 | .muted => 2
def Selector.code : Selector → Nat
  | .atBay => 1 | .remote => 2
def ProgState.code : ProgState → Nat
  | .queued => 1 | .claiming => 2 | .guard => 3 | .driving => 4 | .finished => 5
def OwnStateName.code : OwnStateName → Nat
  | .idle => 1 | .asking => 2 | .waiting => 3 | .held => 4
def EntryKind.code : EntryKind → Nat
  | .ask => 1 | .hold => 2
def PointKind.code : PointKind → Nat
  | .breaker => 1 | .disconnector => 2 | .earthing => 3 | .voltage => 4 | .binary => 5
def Presence.code : Presence → Nat
  | .never => 1 | .held => 2 | .missing => 3
def Quality.code : Quality → Nat
  | .good => 1 | .never => 2 | .stale => 3 | .withdrawn => 4 | .missing => 5
def PeerStatus.code : PeerStatus → Nat
  | .never => 1 | .good => 2 | .stale => 3 | .withdrawn => 4
def Fact.code : Fact → Nat
  | .no => 1 | .maybe => 2 | .yes => 3
def Colour.code : Colour → Nat
  | .dead => 1 | .live => 2 | .earthed => 3 | .unsure => 4 | .clash => 5
def Qualifier.code : Qualifier → Nat
  | .certain => 1 | .unsure => 2
def EndKind.code : EndKind → Nat
  | .done => 1 | .refused => 2 | .cancelled => 3 | .aborted => 4 | .failed => 5
def Reason.code : Reason → Nat
  | .switchSuspect => 1 | .switchMoving => 2 | .extraCondition => 3 | .notIsolated => 4 | .nodeNotDead => 5
  | .clashRisk => 6 | .claimTimeout => 7 | .localTakeover => 8 | .linkMuted => 9 | .claimClash => 10
  | .travelTimeout => 11 | .wrongEnd => 12 | .badPosition => 13 | .guardTimeout => 14
def FaultKind.code : FaultKind → Nat
  | .travelTimeout => 1 | .wrongEnd => 2 | .badPosition => 3 | .stuckIntermediate => 4 | .claimClash => 5
  | .linkContention => 6 | .echoLoss => 7 | .duplicateUnit => 8
def ReplyStatus.code : ReplyStatus → Nat
  | .ok => 0 | .badRequest => 1 | .notRunning => 2 | .notHalted => 3 | .busy => 4 | .selectorLocal => 5
  | .linkDown => 6 | .queueFull => 7 | .unknownHandle => 8 | .noSuchPoint => 9 | .noSuchNode => 10
  | .notAtEnd => 11 | .empty => 12 | .overrun => 13
def EventBody.kindCode : EventBody → Nat
  | .start _ => 1 | .stepComplete _ _ _ _ => 2 | .programEnd _ _ => 3 | .uncommandedChange _ _ _ => 4
  | .switchSuspect _ => 5 | .suspectCleared _ => 6 | .peerStale _ => 7 | .peerGood _ => 8
  | .peerWithdrawn _ => 9 | .revisionMismatch _ _ => 10 | .claimYielded _ _ _ _ => 11 | .fault _ _ => 12
  | .linkMuted _ _ => 13 | .linkRestored _ => 14 | .selectorChanged _ => 15

def kindOfCode (c : Nat) : Option PointKind :=
  match c with
  | 1 => some .breaker
  | 2 => some .disconnector
  | 3 => some .earthing
  | 4 => some .voltage
  | 5 => some .binary
  | _ => none

def optCode {α : Type} (f : α → Nat) (o : Option α) : Nat := (o.map f).getD 0
def valueCode (v : Option PointValue) : Byte := (v.map PointValue.code).getD 0

/-- A raw contact pair's byte: bit 0 the open-position contact, bit 1 the closed-position one (R181). -/
def ContactPair.byte (p : ContactPair) : Byte := byteOf (bitOf p.opened + 2 * bitOf p.closed)
def rawByte (p : Option ContactPair) : Byte := (p.map ContactPair.byte).getD 0

/-! ### Yard-link frames (section 12.2) -/

def FrameBody.typeCode : FrameBody → Nat
  | .bulletin _ _ _ _ => 0x01
  | .ask _ _ _ _ => 0x21
  | .hold _ _ _ _ => 0x22
  | .drop _ => 0x23
  | .yieldRequest _ _ => 0x24

def Item.bytes (i : Item) : List Byte := enc16 i.point ++ [i.value, i.flags]

def FrameBody.bytes : FrameBody → List Byte
  | .bulletin n r ms items =>
    enc16 n.toNat ++ [r] ++ enc16 ms ++ [byteOf items.length] ++ items.flatMap Item.bytes
  | .ask z u d life => [byteOf z, byteOf u, byteOf d] ++ enc16 life
  | .hold z u d ms => [byteOf z, byteOf u, byteOf d] ++ enc16 ms
  | .drop z => [byteOf z]
  | .yieldRequest z u => [byteOf z, byteOf u]

/-- A frame as sent (section 12.2, R179). -/
def frameBytes (f : Frame) : List Byte :=
  sealCrc ([byteOf f.body.typeCode, byteOf f.sender] ++ enc16 f.revision ++ [byteOf f.body.bodyLength] ++ f.body.bytes)

/-- A bulletin's items, four bytes each. -/
def parseItems : List Byte → List Item
  | p1 :: p0 :: v :: fl :: rest => { point := dec16 p1 p0, value := v, flags := fl } :: parseItems rest
  | _ => []

/-- A frame's body by its type, where it has the length its type requires (R180). -/
def parseBody (type : Nat) (body : List Byte) : Option FrameBody :=
  match type, body with
  | 0x01, s1 :: s0 :: r :: h1 :: h0 :: n :: items =>
    if items.length = 4 * n.toNat ∧ n.toNat ≤ Config.maxItems then
      some (.bulletin (BitVec.ofNat 16 (dec16 s1 s0)) r (dec16 h1 h0) (parseItems items))
    else none
  | 0x21, [z, u, d, l1, l0] => some (.ask z.toNat u.toNat d.toNat (dec16 l1 l0))
  | 0x22, [z, u, d, l1, l0] => some (.hold z.toNat u.toNat d.toNat (dec16 l1 l0))
  | 0x23, [z] => some (.drop z.toNat)
  | 0x24, [z, u] => some (.yieldRequest z.toNat u.toNat)
  | _, _ => none

/-- The frame that received bytes are, if they pass the checks of R180: a type the unit knows, as many bytes
as the body length says, the length its type requires, a good CRC. -/
def parseFrame (bs : List Byte) : Option Frame :=
  match bs with
  | type :: sender :: r1 :: r0 :: len :: rest =>
    if rest.length = len.toNat + 2 then
      match parseBody type.toNat (rest.take len.toNat) with
      | some body => if crcGood bs then some { sender := sender.toNat, revision := dec16 r1 r0, body := body } else none
      | none => none
    else none
  | _ => none

/-! ### Request records (section 12.3) -/

def requestTypeCode : Request → Nat
  | .readStatus => 0x01
  | .restart => 0x02
  | .halt => 0x03
  | .writeConfig _ _ => 0x04
  | .operate _ _ _ => 0x10
  | .program _ _ => 0x11
  | .cancel _ => 0x12
  | .check _ _ => 0x13
  | .readPoint _ => 0x20
  | .readNode _ => 0x21
  | .readClaims => 0x22
  | .readEvent => 0x23
  | .readCapture => 0x24
  | .unlockCapture => 0x25
  | .clearFaultSwitch _ => 0x30
  | .clearFaultLink => 0x31
  | .unknown t => t

/-- A PROGRAM's steps, three bytes each. -/
def parseSteps : List Byte → List StepField
  | p1 :: p0 :: t :: rest => { point := dec16 p1 p0, target := t.toNat } :: parseSteps rest
  | _ => []

/-- The request of a known type whose fields have the length its type requires (R181). -/
def parseFields (type : Nat) (fields : List Byte) : Option Request :=
  match type, fields with
  | 0x01, [] => some .readStatus
  | 0x02, [] => some .restart
  | 0x03, [] => some .halt
  | 0x04, o1 :: o0 :: data => if data.length = Config.blockBytes then some (.writeConfig (dec16 o1 o0) data) else none
  | 0x10, [u, p1, p0, t] => some (.operate u.toNat (dec16 p1 p0) t.toNat)
  | 0x11, u :: n :: steps => if steps.length = 3 * n.toNat then some (.program u.toNat (parseSteps steps)) else none
  | 0x12, [h] => some (.cancel h.toNat)
  | 0x13, [p1, p0, t] => some (.check (dec16 p1 p0) t.toNat)
  | 0x20, [p1, p0] => some (.readPoint (dec16 p1 p0))
  | 0x21, [n] => some (.readNode n.toNat)
  | 0x22, [] => some .readClaims
  | 0x23, [] => some .readEvent
  | 0x24, [] => some .readCapture
  | 0x25, [] => some .unlockCapture
  | 0x30, [p1, p0] => some (.clearFaultSwitch (dec16 p1 p0))
  | 0x31, [] => some .clearFaultLink
  | _, _ => none

/-- The request types R181's table gives. -/
def knownTypes : List Nat :=
  [0x01, 0x02, 0x03, 0x04, 0x10, 0x11, 0x12, 0x13, 0x20, 0x21, 0x22, 0x23, 0x24, 0x25, 0x30, 0x31]

/-- A completed record: the request it is, or none where it is discarded with no reply (R166, R181). -/
def parseRecord (bs : List Byte) : Option Tagged :=
  match bs with
  | l1 :: l0 :: type :: tag :: rest =>
    if dec16 l1 l0 = bs.length ∧ 6 ≤ bs.length ∧ crcGood bs = true then
      if knownTypes.contains type.toNat then
        (parseFields type.toNat (rest.take (rest.length - 2))).map fun r => { tag := tag, request := r }
      else some { tag := tag, request := .unknown type.toNat }
    else none
  | _ => none

/-- The completed records of an unbroken run of bytes: each begins with its length L and is completed when L
bytes have been received; what is left incomplete at the gap is discarded (R181). A record whose L is 0 or 1 is
complete with the two bytes that give L, and the next byte begins a new record (DESIGN CHOICE, log 37). -/
def completedRecords : Nat → List Byte → List (List Byte)
  | 0, _ => []
  | n + 1, bs =>
    match bs with
    | l1 :: l0 :: _ =>
      let l := max 2 (dec16 l1 l0)
      if l ≤ bs.length then bs.take l :: completedRecords n (bs.drop l) else []
    | _ => []

/-! ### Events, the capture and replies (sections 12.3 and 12.4) -/

def EventBody.subject : EventBody → Nat
  | .start _ => 0
  | .stepComplete h _ _ _ => h
  | .programEnd h _ => h
  | .uncommandedChange p _ _ => p
  | .switchSuspect p => p
  | .suspectCleared p => p
  | .peerStale u => u
  | .peerGood u => u
  | .peerWithdrawn u => u
  | .revisionMismatch u _ => u
  | .claimYielded z _ _ _ => z
  | .fault x _ => x
  | .linkMuted u _ => u
  | .linkRestored u => u
  | .selectorChanged _ => 0

def YieldCause.code : YieldCause → Nat
  | .yieldRequest => 1 | .splitClaim => 2
def StepOutcome.code : StepOutcome → Nat
  | .driven => 1 | .already => 2

def EndStatus.bytes (e : EndStatus) : List Byte :=
  [byteOf e.kind.code, byteOf (optCode Reason.code e.reason), byteOf e.step,
    byteOf (optCode Qualifier.code e.qualifier), byteOf e.condition] ++ enc16 e.point ++ [byteOf e.node]

/-- The detail bytes of an event, before the zeros that fill eight (section 12.4). -/
def EventBody.detail : EventBody → List Byte
  | .start c => [byteOf c.code]
  | .stepComplete _ step switch o => [byteOf step] ++ enc16 switch ++ [byteOf o.code]
  | .programEnd _ e => e.bytes
  | .uncommandedChange _ o n => [o.code, n.code]
  | .switchSuspect _ => []
  | .suspectCleared _ => []
  | .peerStale _ => []
  | .peerGood _ => []
  | .peerWithdrawn _ => []
  | .revisionMismatch _ r => enc16 r
  | .claimYielded _ c u h => [byteOf c.code, byteOf u, byteOf h]
  | .fault _ k => [byteOf k.code]
  | .linkMuted _ k => [byteOf k.code]
  | .linkRestored _ => []
  | .selectorChanged st => [byteOf st.code]

/-- An event record: 15 bytes (section 12.4). -/
def Event.bytes (e : Event) : List Byte :=
  [byteOf e.body.kindCode] ++ enc32 e.time ++ enc16 e.body.subject ++ (e.body.detail ++ List.replicate 8 0).take 8

/-- The capture record: 13 + h bytes (section 12.4). -/
def Capture.bytes (c : Capture) : List Byte :=
  [byteOf c.kind.code] ++ enc32 c.time ++ enc16 c.subject ++
    [byteOf c.handle, byteOf c.step, byteOf (optCode ProgState.code c.stepState), valueCode c.value, rawByte c.raw,
      byteOf c.zones.length] ++ c.zones.map byteOf

def StatusReply.bytes (r : StatusReply) : List Byte :=
  [byteOf r.mode.code, byteOf (optCode HaltCause.code r.haltCause), byteOf (optCode HaltCause.check r.haltCause),
    byteOf r.startCause.code, byteOf r.linkMode.code, byteOf (bitOf r.dup), byteOf r.selector.code,
    byteOf (optCode (·.1) r.active), byteOf (optCode (fun a => a.2.code) r.active), byteOf r.queueLength,
    byteOf r.events, byteOf (bitOf r.lost + 2 * bitOf r.captureLocked)]

def Verdict.bytes : Verdict → List Byte
  | .permit at_ => [1, byteOf (bitOf at_), 0, 0, 0, 0, 0, 0]
  | .refuse r =>
    [2, 0, byteOf r.reason.code, byteOf r.condition] ++ enc16 r.point ++ [byteOf r.node, byteOf r.qualifier.code]

def PointReply.bytes (p : PointReply) : List Byte :=
  enc16 p.id ++ [byteOf p.kind.code, byteOf p.owner, valueCode p.value, byteOf (bitOf p.suspect),
    byteOf p.presence.code, byteOf p.quality.code, rawByte p.raw, byteOf (optCode PeerStatus.code p.ownerStatus)] ++
    enc16 p.lastState.toNat ++ [p.lastRepeat] ++ enc16 p.toExpiry

def ClaimEntryReply.bytes (e : ClaimEntryReply) : List Byte :=
  [byteOf e.unit, byteOf e.kind.code, byteOf e.urgency, byteOf e.defer] ++ enc16 e.toExpiry

def ZoneReply.bytes (z : ZoneReply) : List Byte :=
  [byteOf z.zone, byteOf z.own.code, byteOf z.entries.length] ++ z.entries.flatMap ClaimEntryReply.bytes

def ReplyBody.bytes : ReplyBody → List Byte
  | .none => []
  | .handle h => [byteOf h]
  | .status r => r.bytes
  | .verdict v => v.bytes
  | .point p => p.bytes
  | .node n live earthed colour => [byteOf n, byteOf live.code, byteOf earthed.code, byteOf colour.code]
  | .claims a zones =>
    [byteOf (optCode (·.1) a), byteOf (optCode (fun x => x.2.1) a), byteOf (optCode (fun x => x.2.2) a),
      byteOf zones.length] ++ zones.flatMap ZoneReply.bytes
  | .event e => e.bytes
  | .capture c => c.bytes

/-- A reply record as sent (section 12.3, R179, R181). -/
def replyBytes (r : Reply) : List Byte :=
  sealCrc (enc16 (r.body.bytes.length + 7) ++ [byteOf r.type, r.tag, byteOf r.status.code] ++ r.body.bytes)

/-- DAMAGED_FRAME: bytes received from the medium go through the checks of R180 and are discarded at the first
that fails; bytes that pass them all are no damaged frame and are received as the frame they are (log 22). -/
def execDamagedFrame (bytes : List Byte) (s : State) : Host.Outcome State Fault Refusal :=
  .next (match parseFrame bytes with
    | some f => s.receive f
    | none => s)

end Sys2Proof.Machine
end

