-- ==== Sys2Proof/Machine/Loading.lean ====
section
/-! DEFINITION. Loading: the configuration image read from the store (section 12.6, R182), its integrity (R11) and
its validity checks in order (R12). -/
namespace Sys2Proof.Machine

/-! ### The image as stored (section 12.6) -/

structure RawPoint where
  id : Nat
  kind : Nat
  owner : Nat
  nodeA : Nat
  nodeB : Nat
  deriving DecidableEq, Repr

structure RawCondition where
  point : Nat
  value : Byte
  deriving DecidableEq, Repr

structure RawLocal where
  point : Nat
  input : Nat
  coil : Nat
  runTime : Nat
  recovery : Nat
  closeConditions : List RawCondition
  openConditions : List RawCondition
  deriving DecidableEq, Repr

structure RawImage where
  unit : Nat
  revision : Nat
  highNode : Nat
  pointCount : Nat
  zoneCount : Nat
  recovery : Nat
  times : List Nat
  sections : List Byte
  deriving DecidableEq, Repr

structure RawSections where
  points : List RawPoint
  locals : List RawLocal
  zones : List ZoneDef
  deriving DecidableEq, Repr

/-- The word at an offset of some bytes. -/
def wordAt (bs : List Byte) (i : Nat) : Nat := dec16 (bs.getD i 0) (bs.getD (i + 1) 0)
def numAt (bs : List Byte) (i : Nat) : Nat := (bs.getD i 0).toNat

/-- The fixed header of 28 bytes and the sections after it, CRC left out (section 12.6). -/
def readHeader (image : List Byte) : RawImage :=
  { unit := numAt image 2
    revision := wordAt image 3
    highNode := numAt image 5
    pointCount := wordAt image 6
    zoneCount := numAt image 8
    recovery := numAt image 9
    times := [wordAt image 10, wordAt image 12, wordAt image 14, wordAt image 16, wordAt image 18, wordAt image 20,
              wordAt image 22, wordAt image 24, wordAt image 26]
    sections := (image.take (image.length - 2)).drop 28 }

def readPoints : Nat → List Byte → Option (List RawPoint × List Byte)
  | 0, bs => some ([], bs)
  | n + 1, i1 :: i0 :: k :: o :: a :: b :: bs =>
    (readPoints n bs).map fun (ps, rest) =>
      ({ id := dec16 i1 i0, kind := k.toNat, owner := o.toNat, nodeA := a.toNat, nodeB := b.toNat } :: ps, rest)
  | _ + 1, _ => none

def readConditions : Nat → List Byte → Option (List RawCondition × List Byte)
  | 0, bs => some ([], bs)
  | n + 1, i1 :: i0 :: v :: bs =>
    (readConditions n bs).map fun (cs, rest) => ({ point := dec16 i1 i0, value := v } :: cs, rest)
  | _ + 1, _ => none

/-- A local record: a condition count above 4 does not read (R182). -/
def readLocal : List Byte → Option (RawLocal × List Byte)
  | i1 :: i0 :: inp :: coil :: t1 :: t0 :: v1 :: v0 :: c :: o :: bs =>
    if c.toNat ≤ 4 ∧ o.toNat ≤ 4 then
      match readConditions c.toNat bs with
      | none => none
      | some (cs, bs1) =>
        (readConditions o.toNat bs1).map fun (os, rest) =>
          ({ point := dec16 i1 i0, input := inp.toNat, coil := coil.toNat, runTime := dec16 t1 t0,
             recovery := dec16 v1 v0, closeConditions := cs, openConditions := os }, rest)
    else none
  | _ => none

def readLocals : Nat → List Byte → Option (List RawLocal × List Byte)
  | 0, bs => some ([], bs)
  | n + 1, bs =>
    match readLocal bs with
    | none => none
    | some (l, bs1) => (readLocals n bs1).map fun (ls, rest) => (l :: ls, rest)

def readZones : Nat → List Byte → Option (List ZoneDef × List Byte)
  | 0, bs => some ([], bs)
  | n + 1, z :: k :: bs =>
    if k.toNat ≤ bs.length then
      (readZones n (bs.drop k.toNat)).map fun (zs, rest) =>
        ({ number := z.toNat, nodes := (bs.take k.toNat).map (·.toNat) } :: zs, rest)
    else none
  | _ + 1, _ => none

/-- The sections read by their counts, with no byte left over (R182). -/
def readSections (r : RawImage) : Option RawSections :=
  match readPoints r.pointCount r.sections with
  | some (ps, lc :: bs1) =>
    match readLocals lc.toNat bs1 with
    | some (ls, bs2) =>
      match readZones r.zoneCount bs2 with
      | some (zs, []) => some { points := ps, locals := ls, zones := zs }
      | _ => none
    | none => none
  | _ => none

/-! ### The validity checks (R12) -/

def within (lo hi x : Nat) : Bool := decide (lo ≤ x) && decide (x ≤ hi)

/-- A stored figure of 0xFFFF is unstated (section 12.6); anything else is checked against its range. -/
def statedWithin (lo hi x : Nat) : Bool := x == 0xFFFF || within lo hi x
def orDefault (x d : Nat) : Nat := if x = 0xFFFF then d else x

def noRepeats (l : List Nat) : Bool := decide l.Nodup

def RawPoint.isKind (p : RawPoint) (k : PointKind) : Bool := kindOfCode p.kind == some k
def RawPoint.isSwitch (p : RawPoint) : Bool := p.isKind .breaker || p.isKind .disconnector || p.isKind .earthing

/-- Check 3 on the counts of the sections (R2, R12); a local point is one this unit owns, and the local count is
the number of points carrying local settings (log 14). -/
def countsOk (unit : Nat) (x : RawSections) : Bool :=
  let count (f : RawPoint → Bool) : Nat := (x.points.filter f).length
  let mine (p : RawPoint) : Bool := p.owner == unit
  decide (x.locals.length ≤ 24) && decide (count mine ≤ 24) &&
    decide (count RawPoint.isSwitch ≤ 192) && decide (count (fun p => p.isSwitch && mine p) ≤ 12) &&
    decide (count (fun p => p.isKind .voltage) ≤ 32) && decide (count (fun p => p.isKind .voltage && mine p) ≤ 4) &&
    decide (count (fun p => p.isKind .binary && mine p) ≤ 8)

/-- The kind of the point that a local record names, if the table holds it. Of an id that the table holds twice, which
check 5 refuses only after check 4, the first point's kind is taken (DESIGN CHOICE, log 32). -/
def RawSections.kindOf (x : RawSections) (id : Nat) : Option PointKind :=
  (x.points.find? fun p => p.id == id).bind fun p => kindOfCode p.kind

def RawLocal.unswitched (l : RawLocal) : Bool :=
  l.coil == 0 && l.runTime == 0xFFFF && l.recovery == 0xFFFF && l.closeConditions.isEmpty && l.openConditions.isEmpty

/-- Check 4 on one local record (R8, R12). The ranges go by the named point's kind whatever unit owns it, which check 6
looks at afterwards (DESIGN CHOICE, log 33); a record whose id the table lacks is left to check 6. -/
def localSettingOk (x : RawSections) (l : RawLocal) : Bool :=
  match x.kindOf l.point with
  | none => true
  | some .voltage => within 1 4 l.input && l.unswitched
  | some .binary => within 1 8 l.input && l.unswitched
  | some .breaker | some .disconnector | some .earthing =>
    within 1 24 l.input && within 1 12 l.coil && statedWithin 50 30000 l.runTime && statedWithin 0 10000 l.recovery

def inputsOf (x : RawSections) (allow : PointKind → Bool) : List RawLocal :=
  x.locals.filter fun l => match x.kindOf l.point with | some k => allow k | none => false

/-- Check 4 on the timing parameters and the recovery mode (R9). -/
def timesOk (r : RawImage) : Bool :=
  match r.times with
  | [ft, b, h, m, w, f, cp, gp, st] =>
    statedWithin 5 100 ft && statedWithin 2 50 b && statedWithin 500 10000 h && statedWithin 10 1000 m &&
      statedWithin 20 500 w && statedWithin 200 2000 f && statedWithin 1 60 cp && statedWithin 5 120 gp &&
      statedWithin 0 5000 st && (within 1 2 r.recovery || r.recovery == 0xFF)
  | _ => false

def check4 (r : RawImage) (x : RawSections) : Bool :=
  x.points.all (fun p => within 1 5 p.kind && within 1 48 p.owner) && timesOk r && x.locals.all (localSettingOk x) &&
    noRepeats ((inputsOf x PointKind.isSwitch).map (·.input)) && noRepeats ((inputsOf x PointKind.isSwitch).map (·.coil)) &&
    noRepeats ((inputsOf x (· == .voltage)).map (·.input)) && noRepeats ((inputsOf x (· == .binary)).map (·.input))

def check5 (x : RawSections) : Bool := x.points.all (fun p => within 1 65535 p.id) && noRepeats (x.points.map (·.id))

def check6 (unit : Nat) (x : RawSections) : Bool :=
  noRepeats (x.locals.map (·.point)) &&
    x.locals.all (fun l => x.points.any fun p => p.id == l.point && p.owner == unit) &&
    x.points.all (fun p => p.owner != unit || x.locals.any fun l => l.point == p.id)

/-- Check 7 on one point (R3, R4); the nodes that a voltage or binary point leaves unused are not looked at
(log 15). -/
def nodesOk (high : Nat) (p : RawPoint) : Bool :=
  match kindOfCode p.kind with
  | some .breaker | some .disconnector => within 1 high p.nodeA && within 1 high p.nodeB && p.nodeA != p.nodeB
  | some .earthing => within 1 high p.nodeA && p.nodeB == 0
  | some .voltage => within 1 high p.nodeA
  | some .binary => true
  | none => true

def check7 (r : RawImage) (x : RawSections) : Bool :=
  x.points.all (nodesOk r.highNode) && noRepeats ((x.points.filter fun p => p.isKind .voltage).map (·.nodeA))

def check8 (r : RawImage) (x : RawSections) : Bool :=
  x.zones.all (fun z =>
    within 1 24 z.number && within 1 16 z.nodes.length && z.nodes.all (within 1 r.highNode) && noRepeats z.nodes) &&
    noRepeats (x.zones.map (·.number))

def conditionOk (x : RawSections) (c : RawCondition) : Bool :=
  match x.kindOf c.point, valueOfCode c.value with
  | some k, some v => k.settled v
  | _, _ => false

def check9 (x : RawSections) : Bool :=
  x.locals.all fun l => l.closeConditions.all (conditionOk x) && l.openConditions.all (conditionOk x)

/-! ### The model an image gives -/

/-- The parameters, defaults in place of what is unstated (R9). -/
def paramsOf (r : RawImage) : Params :=
  let t (i : Nat) : Nat := r.times.getD i 0xFFFF
  { filterTime := orDefault (t 0) 20
    base := orDefault (t 1) Config.defaultBase
    heartbeat := orDefault (t 2) 2000
    margin := orDefault (t 3) 50
    window := orDefault (t 4) 60
    refresh := orDefault (t 5) 500
    claimPatience := orDefault (t 6) 10
    guardPatience := orDefault (t 7) 30
    settle := orDefault (t 8) 400
    recovery := if r.recovery = 2 then .onClear else .auto }

def check10 (p : Params) : Bool := decide (p.window * 2 < p.refresh)
def check11 (p : Params) : Bool := decide (8 * p.base ≤ p.heartbeat)

/-- The default run time of a switch's kind (R8). -/
def defaultRun : PointKind → Nat
  | .breaker => 200
  | .disconnector => 15000
  | .earthing => 10000
  | .voltage => 0
  | .binary => 0

/-- The default recovery time of a switch's kind (R8). -/
def defaultRecovery : PointKind → Nat
  | .breaker => 300
  | .disconnector => 1000
  | .earthing => 1000
  | .voltage => 0
  | .binary => 0

def conditionOf (c : RawCondition) : Condition :=
  { point := c.point, value := (valueOfCode c.value).getD .bad }

def localOf (x : RawSections) (l : RawLocal) : LocalDef :=
  let k := (x.kindOf l.point).getD .binary
  { point := l.point, input := l.input, coil := l.coil, runTime := orDefault l.runTime (defaultRun k),
    recovery := orDefault l.recovery (defaultRecovery k), closeConditions := l.closeConditions.map conditionOf,
    openConditions := l.openConditions.map conditionOf }

def pointOf (p : RawPoint) : PointDef :=
  { id := p.id, kind := (kindOfCode p.kind).getD .binary, owner := p.owner, nodeA := p.nodeA, nodeB := p.nodeB }

/-- A row put into a list kept ascending by a key. -/
def insertBy {α : Type} (key : α → Nat) (a : α) : List α → List α
  | [] => [a]
  | b :: rest => if key a ≤ key b then a :: b :: rest else b :: insertBy key a rest

/-- A list ascending by a key. -/
def sortBy {α : Type} (key : α → Nat) : List α → List α
  | [] => []
  | a :: rest => insertBy key a (sortBy key rest)

/-- The model of a valid image (chapter 1): points, local points and zones ascending. -/
def modelOf (r : RawImage) (x : RawSections) : YardModel :=
  { unit := r.unit, revision := r.revision, highNode := r.highNode, points := sortBy (·.id) (x.points.map pointOf),
    locals := sortBy (·.point) (x.locals.map (localOf x)), zones := sortBy (·.number) x.zones, params := paramsOf r }

/-- How loading ends (R11, R12). -/
inductive LoadResult where
  | loaded (model : YardModel)
  | failed (cause : HaltCause)
  deriving DecidableEq, Repr

/-- Checks 4 to 11 in order, on an image whose counts hold (R12). -/
def checkSections (r : RawImage) (x : RawSections) : LoadResult :=
  if !countsOk r.unit x then .failed (.configInvalid 3)
  else if !check4 r x then .failed (.configInvalid 4)
  else if !check5 x then .failed (.configInvalid 5)
  else if !check6 r.unit x then .failed (.configInvalid 6)
  else if !check7 r x then .failed (.configInvalid 7)
  else if !check8 r x then .failed (.configInvalid 8)
  else if !check9 x then .failed (.configInvalid 9)
  else if !check10 (paramsOf r) then .failed (.configInvalid 10)
  else if !check11 (paramsOf r) then .failed (.configInvalid 11)
  else .loaded (modelOf r x)

/-- The validity checks of an image whose CRC is good (R12, R182). -/
def checkImage (image : List Byte) : LoadResult :=
  let r := readHeader image
  if !within 1 48 r.unit then .failed (.configInvalid 1)
  else if r.revision = 0 then .failed (.configInvalid 2)
  else if !(within 1 127 r.highNode && decide (r.pointCount ≤ 256) && decide (r.zoneCount ≤ 24)) then
    .failed (.configInvalid 3)
  else
    match readSections r with
    | none => .failed (.configInvalid 3)
    | some x => checkSections r x

/-- The stated image length (section 12.6). -/
def statedLength (store : List Host.Cell) : Nat := dec16 (storeRead store 0) (storeRead store 1)

/-- Loading: the stated length, the CRC, then the validity checks (R11, R12, R182). -/
def loadStore (store : List Host.Cell) : LoadResult :=
  let n := statedLength store
  if n < 30 ∨ Config.storeBytes < n then .failed .configCrc
  else
    let image := storeBytes store 0 n
    if crcGood image then checkImage image else .failed .configCrc

end Sys2Proof.Machine
end

