-- ==== Sys2Proof/Machine/Startup.lean ====
section
/-! DEFINITION. Start-up control's acts (section 1.5): a start, the installing of a model, the entry to RUN and
the orderly stop. Its commands stand in Control.lean. -/
namespace Sys2Proof.Machine

/-! ### Starts (R13) -/

/-- Start-up control after a start: LOADING, no halt cause, the cause of the start; the store is kept (R10, R13). -/
def StartControl.start (c : StartControl) (cause : StartCause) : StartControl :=
  { mode := .loading, haltCause := none, startCause := cause, quietEnd := 0, model := .blank, stopping := none,
    blockWrite := none, store := c.store }

/-- The bay port after a start (R177): a single START event, nothing lost, the capture empty. The request in hand
and the waiting request are not touched here. -/
def Port.start (p : Port) (time : Time) (cause : StartCause) : Port :=
  { p with events := [startEvent time cause], lost := false, capture := none }

/-- A start (R13): every block takes its values after a start (R38, R56, R107, R108, R143, R165, R177). The lines and
the medium are the world's and stay as they are. -/
def State.start (s : State) (cause : StartCause) : State :=
  { s with
    ctl := s.ctl.start cause
    bay := .start s.bay.lines
    image := .start
    claims := .start
    seq := .start
    pub := .start
    link := .start s.link.mediumBusy
    port := s.port.start s.now cause }

/-- A power-on start (R13, R177): supply, a clock at 0, no request in hand and none waiting. -/
def State.powerOnStart (s : State) : State :=
  (((s.setSupplied true).setMicros 0).setPort { s.port with inHand := none, waiting := none }).start .powerOn

/-- The supply is lost (R10, R15, R39, R107): a block being stored ends old or new, every coil falls off, an attempt
ends, and the requests are gone. -/
def State.loseSupply (s : State) : State :=
  let s1 := s.tearBlock
  let s2 := s1.setBay { s1.bay with drive := none, report := none }
  let s3 := s2.setLink { s2.link with inHand := none, stage := .idle }
  (s3.setPort { s3.port with inHand := none, waiting := none }).setSupplied false

/-! ### Loading ends (R13, R14) -/

/-- A point's entry as loading builds it (R40, R56). -/
def PointDef.entry (p : PointDef) : PointEntry :=
  { id := p.id, kind := p.kind, owner := p.owner, value := none, suspect := false, presence := .never }

/-- The image's tables for the model that loading installs (R56). -/
def Image.build (i : Image) (m : YardModel) : Image :=
  { i with entries := m.points.map PointDef.entry, moves := m.zones.map fun z => { zone := z.number, time := none } }

/-- The claim controller's zones for the model that loading installs (R143). -/
def Claims.build (m : YardModel) : Claims :=
  { zones := m.zones.map fun z => { zone := z.number, own := .idle, peers := [] }, job := none }

/-- The quiet time, 2 × H + M + 100 ms (R14). -/
def Params.quietTime (p : Params) : Nat := 2 * p.heartbeat + p.margin + 100

/-- The model installed and QUIET entered (R13, R14, R24). -/
def State.enterQuiet (s : State) (m : YardModel) : State :=
  let s1 := s.setCtl { s.ctl with mode := .quiet, model := m, quietEnd := after s.now m.params.quietTime }
  let s2 := (s1.setImage (s1.image.build m)).setClaims (.build m)
  (s2.setPub { s2.pub with interval := m.params.base }).beginFiltering

/-- HALTED entered with a halt cause (R13, R16). -/
def State.enterHalted (s : State) (c : HaltCause) : State :=
  s.setCtl { s.ctl with mode := .halted, haltCause := some c, stopping := none }

/-- HALTED entered on a HALT, which leaves the sequencer as a start does (R16, R165). -/
def State.enterHalt (s : State) : State := (s.enterHalted .haltRequest).setSeq .start

/-- Loading ends by what the store holds (R11, R12, R13). -/
def State.endLoading (s : State) : State :=
  match loadStore s.ctl.store with
  | .loaded m => s.enterQuiet m
  | .failed c => s.enterHalted c

/-- RUN entered, and the publisher starts its schedule with a change (R15). -/
def State.enterRun (s : State) : State := (s.setCtl { s.ctl with mode := .run }).publishStart

/-! ### The orderly stop (R17, R39, R106, R118) -/

/-- The frames an orderly stop queues: a DROP for each zone HELD, ascending, then the withdrawal (R17 step 3). -/
def State.stopFrames (s : State) : List Frame :=
  (s.heldZones.map fun z => s.frame (.drop z)) ++ [s.frame s.withdrawal]

/-- An orderly stop begins (R17): the drive is cut with no report (R39), the frame in hand and the transmit list give
way to the stop's own frames (R106), the schedule stops (R118), and the first of those frames is taken in hand. -/
def State.beginStop (s : State) (why : StopReason) : State :=
  let s1 := s.setBay { s.bay with drive := none, report := none }
  let s2 := s1.setLink { s1.link with inHand := none, stage := .idle, txList := s1.stopFrames }
  let s3 := s2.stopSchedule
  (s3.setCtl { s3.ctl with stopping := some why }).takeHead

end Sys2Proof.Machine
end

