-- ==== Sys2Proof/Machine/Port.lean ====
section
/-! DEFINITION. The bay port (chapter 10): requests received, admitted by mode and answered. -/
namespace Sys2Proof.Machine

/-! ### Replies and the request in hand (R166) -/

def Port.reply (p : Port) (r : Reply) : Port := { p with replies := p.replies ++ [r] }

/-- A reply record leaves the unit (section 12.3). -/
def State.reply (s : State) (t : Tagged) (status : ReplyStatus) (body : ReplyBody) : State :=
  s.setPort (s.port.reply { type := requestTypeCode t.request, tag := t.tag, status := status, body := body })

/-- The request in hand is released (R166). -/
def State.release (s : State) : State := s.setPort { s.port with inHand := none }

/-- The request in hand is answered and with that released (R166). -/
def State.answer (s : State) (t : Tagged) (status : ReplyStatus) (body : ReplyBody) : State :=
  (s.reply t status body).release

/-! ### Admission by mode (R167) -/

/-- The classes of the rows of R167's table. -/
inductive RequestClass where
  | always | store | stop | operation | read | link | unknown
  deriving DecidableEq, Repr

/-- A request's row of R167's table. -/
def requestRow : Request → RequestClass
  | .readStatus | .restart => .always
  | .writeConfig _ _ => .store
  | .halt => .stop
  | .operate _ _ _ | .program _ _ => .operation
  | .cancel _ | .check _ _ | .readPoint _ | .readNode _ | .readClaims => .read
  | .readEvent | .readCapture | .unlockCapture | .clearFaultSwitch _ => .read
  | .clearFaultLink => .link
  | .unknown _ => .unknown

/-- The reply with which a mode refuses a request, if it does (R166, R167). -/
def modeRefusal (m : UnitMode) (c : RequestClass) : Option ReplyStatus :=
  match c, m with
  | .always, _ => none
  | .store, .halted => none
  | .store, _ => some .notHalted
  | .stop, .quiet => none
  | .stop, .run => none
  | .stop, _ => some .notRunning
  | .operation, .run => none
  | .operation, _ => some .notRunning
  | .read, .quiet => none
  | .read, .run => none
  | .read, _ => some .notRunning
  | .link, .run => none
  | .link, _ => some .notRunning
  | .unknown, _ => some .badRequest

/-! ### What the reads answer -/

/-- READ_STATUS's items (R169). -/
def State.statusReply (s : State) : StatusReply :=
  { mode := s.ctl.mode
    haltCause := s.ctl.haltCause
    startCause := s.ctl.startCause
    linkMode := s.link.mode
    dup := s.link.dup
    selector := s.bay.selectorState
    active := s.seq.active.map fun p => (p.handle, p.phase.name)
    queueLength := s.seq.queue.length
    events := s.port.events.length
    lost := s.port.lost
    captureLocked := s.port.capture.isSome }

/-- READ_POINT's items (R54). DEDUCED (log 38): a local switch reports its raw contact pair and a remote point
none, as R54's table and R20 say; the sentence of section 12.3 that makes the raw pair of a local point 0 is read as
that of a remote point. -/
def State.pointReply (s : State) (e : PointEntry) : PointReply :=
  let base : PointReply :=
    { id := e.id, kind := e.kind, owner := e.owner, value := e.value, suspect := e.kind.isSwitch && e.suspect,
      presence := e.presence, quality := s.quality e, raw := none, ownerStatus := none, lastState := 0,
      lastRepeat := 0, toExpiry := 0 }
  if e.owner = s.unit then { base with raw := if e.kind.isSwitch then some (s.rawPair e.id) else none }
  else
    match s.peer? e.owner with
    | some p =>
      { base with ownerStatus := some p.status, lastState := p.lastState, lastRepeat := p.lastRepeat,
                  toExpiry := s.toExpiry p }
    | none => base

/-- READ_NODE's fields (R73). -/
def State.nodeReply (s : State) (n : Nat) : ReplyBody :=
  let c := s.colouring .plain none
  .node n (c.live n) (c.earthed n) (c.colour n)

def OwnState.name : OwnState → OwnStateName
  | .idle => .idle
  | .asking _ _ => .asking
  | .waiting => .waiting
  | .held _ => .held

/-- An entry put into a list kept best rank first. -/
def insertRanked (e : PeerClaim) : List PeerClaim → List PeerClaim
  | [] => [e]
  | x :: rest => if e.rank.better x.rank then e :: x :: rest else x :: insertRanked e rest

/-- A list, best rank first (R144). -/
def sortRanked : List PeerClaim → List PeerClaim
  | [] => []
  | e :: rest => insertRanked e (sortRanked rest)

def State.claimEntryReply (s : State) (e : PeerClaim) : ClaimEntryReply :=
  { unit := e.unit, kind := e.kind, urgency := e.urgency, defer := e.defer, toExpiry := s.msTo e.expiry }

def State.zoneReply (s : State) (c : ZoneClaim) : ZoneReply :=
  { zone := c.zone, own := c.own.name, entries := (sortRanked (c.peers.filter s.live)).map s.claimEntryReply }

/-- READ_CLAIMS's fields (R144). -/
def State.claimsReply (s : State) : ReplyBody :=
  .claims (s.seq.active.map fun p => (p.handle, p.urgency, p.defer)) (s.claims.zones.map s.zoneReply)

/-! ### Requests taken -/

/-- READ_STATUS: the events-lost flag is reported as it stood and then cleared (R169). -/
def State.takeReadStatus (s : State) (t : Tagged) : State :=
  let r := s.statusReply
  (s.setPort { s.port with lost := false }).answer t .ok (.status r)

/-- HALT in QUIET or RUN (R16, R165). -/
def State.takeHalt (s : State) (t : Tagged) : State :=
  if s.seq.queue ≠ [] ∨ s.seq.active.isSome = true then s.answer t .busy .none
  else if s.ctl.mode = .run then s.beginStop .halt
  else s.enterHalt.answer t .ok .none

/-- RESTART: answered first; in RUN an orderly stop comes before the start (R17). -/
def State.takeRestart (s : State) (t : Tagged) : State :=
  let s1 := s.reply t .ok .none
  if s1.ctl.mode = .run then s1.beginStop .restart else (s1.start .restart).release

/-- WRITE_CONFIG in HALTED: a valid offset starts the storing of the block, and the request stays in hand until it
is stored (R10, R166). -/
def State.takeWriteConfig (s : State) (t : Tagged) (offset : Nat) (data : List Byte) : State :=
  if validBlock offset then s.setCtl { s.ctl with blockWrite := some { offset := offset, data := data } }
  else s.answer t .badRequest .none

/-- A step as R168 checks its form: a local switch and a target. -/
def State.stepOf (s : State) (f : StepField) : Option Step :=
  if s.ctl.model.isLocalSwitch f.point then (targetOf f.target).map fun t => { switch := f.point, target := t } else none

/-- The steps of a request, if each has the form R168 asks. -/
def State.stepsOf (s : State) : List StepField → Option (List Step)
  | [] => some []
  | f :: rest =>
    match s.stepOf f, s.stepsOf rest with
    | some st, some sts => some (st :: sts)
    | _, _ => none

/-- Check 1 of R168: the steps of a request of good form. -/
def State.formOf (s : State) (urgency : Nat) (fields : List StepField) : Option (List Step) :=
  if urgency ≤ 3 ∧ 1 ≤ fields.length ∧ fields.length ≤ 8 then s.stepsOf fields else none

/-- OPERATE or PROGRAM in RUN: form, selector, link, then the sequencer (R168, R145). -/
def State.takeProgram (s : State) (t : Tagged) (urgency : Nat) (fields : List StepField) : State :=
  match s.formOf urgency fields with
  | none => s.answer t .badRequest .none
  | some steps =>
    if s.bay.selectorState ≠ .remote then s.answer t .selectorLocal .none
    else if s.link.mode ≠ .active then s.answer t .linkDown .none
    else if Config.queueCapacity ≤ s.seq.queue.length then s.answer t .queueFull .none
    else (s.enqueue urgency steps).answer t .ok (.handle s.newHandle)

/-- CANCEL in QUIET or RUN (R157, R167). -/
def State.takeCancel (s : State) (t : Tagged) (handle : Nat) : State :=
  if s.knowsHandle handle then (s.cancel handle).answer t .ok .none else s.answer t .unknownHandle .none

/-- CHECK (R88). A point that the table lacks is answered NO_SUCH_POINT whatever the target (DESIGN CHOICE, log 34). -/
def State.takeCheck (s : State) (t : Tagged) (point target : Nat) : State :=
  if (s.ctl.model.point? point).isNone then s.answer t .noSuchPoint .none
  else
    match s.stepOf { point := point, target := target } with
    | none => s.answer t .badRequest .none
    | some st => s.answer t .ok (.verdict (s.evaluate st.switch st.target))

/-- READ_POINT (R54). -/
def State.takeReadPoint (s : State) (t : Tagged) (point : Nat) : State :=
  match s.entry? point with
  | none => s.answer t .noSuchPoint .none
  | some e => s.answer t .ok (.point (s.pointReply e))

/-- READ_NODE (R73). -/
def State.takeReadNode (s : State) (t : Tagged) (node : Nat) : State :=
  if s.ctl.model.highNode < node then s.answer t .noSuchNode .none else s.answer t .ok (s.nodeReply node)

/-- READ_EVENT (R171). -/
def State.takeReadEvent (s : State) (t : Tagged) : State :=
  match s.port.events with
  | [] => s.answer t .empty .none
  | e :: rest => (s.setPort { s.port with events := rest }).answer t .ok (.event e)

/-- READ_CAPTURE (R174). -/
def State.takeReadCapture (s : State) (t : Tagged) : State :=
  match s.port.capture with
  | none => s.answer t .empty .none
  | some c => s.answer t .ok (.capture c)

/-- UNLOCK_CAPTURE (R174). -/
def State.takeUnlockCapture (s : State) (t : Tagged) : State :=
  (s.setPort { s.port with capture := none }).answer t .ok .none

/-- CLEAR_FAULT(switch) of a local switch, by its filtered value and its mark (R37). -/
def State.clearSwitch (s : State) (t : Tagged) (p : LocalPoint) : State :=
  if p.value = some .opened ∨ p.value = some .closed then
    (if p.suspect then s.clearMark p.id else s).answer t .ok .none
  else s.answer t .notAtEnd .none

/-- CLEAR_FAULT(switch) (R175). -/
def State.takeClearFaultSwitch (s : State) (t : Tagged) (point : Nat) : State :=
  if (s.ctl.model.point? point).isNone then s.answer t .noSuchPoint .none
  else if s.ctl.model.isLocalSwitch point then
    match s.localPoint? point with
    | some p => s.clearSwitch t p
    | none => s.answer t .notAtEnd .none
  else s.answer t .badRequest .none

/-- CLEAR_FAULT(link) in RUN (R102, R176). -/
def State.takeClearFaultLink (s : State) (t : Tagged) : State := s.clearLink.answer t .ok .none

/-- A request that its mode admits is taken. -/
def State.takeAdmitted (s : State) (t : Tagged) : State :=
  match t.request with
  | .readStatus => s.takeReadStatus t
  | .restart => s.takeRestart t
  | .halt => s.takeHalt t
  | .writeConfig offset data => s.takeWriteConfig t offset data
  | .operate urgency point target => s.takeProgram t urgency [{ point := point, target := target }]
  | .program urgency steps => s.takeProgram t urgency steps
  | .cancel handle => s.takeCancel t handle
  | .check point target => s.takeCheck t point target
  | .readPoint point => s.takeReadPoint t point
  | .readNode node => s.takeReadNode t node
  | .readClaims => s.answer t .ok s.claimsReply
  | .readEvent => s.takeReadEvent t
  | .readCapture => s.takeReadCapture t
  | .unlockCapture => s.takeUnlockCapture t
  | .clearFaultSwitch point => s.takeClearFaultSwitch t point
  | .clearFaultLink => s.takeClearFaultLink t
  | .unknown _ => s.answer t .badRequest .none

/-- The request in hand is taken: refused by the mode, or taken (R167). -/
def State.takeRequest (s : State) (t : Tagged) : State :=
  match modeRefusal s.ctl.mode (requestRow t.request) with
  | some r => s.answer t r .none
  | none => s.takeAdmitted t

/-- A request becomes the request in hand and is taken at once (R166). -/
def State.takeInPort (s : State) (t : Tagged) : State := (s.setPort { s.port with inHand := some t }).takeRequest t

/-- Once the request in hand has been released, the waiting request becomes the request in hand and is taken (R166). -/
def State.pump (s : State) : State :=
  match s.port.inHand, s.port.waiting with
  | none, some t => (s.setPort { s.port with waiting := none }).takeInPort t
  | _, _ => s

/-- A request record that passes its tests is completed: in hand, waiting, or answered OVERRUN (R166). -/
def State.receiveRequest (s : State) (t : Tagged) : State :=
  if s.supplied then
    match s.port.inHand, s.port.waiting with
    | none, _ => s.takeInPort t
    | some _, none => s.setPort { s.port with waiting := some t }
    | some _, some _ => s.reply t .overrun .none
  else s

/-- A completed record is taken if it passes its tests, else discarded with no reply (R166, R181). -/
def State.receiveRecord (s : State) (record : List Byte) : State :=
  match parseRecord record with
  | some t => s.receiveRequest t
  | none => s

/-- Completed records taken in turn. -/
def receiveRecords : List (List Byte) → State → State
  | [], s => s
  | r :: rest, s => receiveRecords rest (s.receiveRecord r)

/-! ### The commands -/

/-- READ_STATUS (R169). -/
def execReadStatus (tag : Byte) (s : State) : Host.Outcome State Fault Refusal :=
  .next (s.receiveRequest ⟨tag, .readStatus⟩)

/-- RESTART (R17). -/
def execRestart (tag : Byte) (s : State) : Host.Outcome State Fault Refusal :=
  .next (s.receiveRequest ⟨tag, .restart⟩)

/-- HALT (R16). -/
def execHalt (tag : Byte) (s : State) : Host.Outcome State Fault Refusal :=
  .next (s.receiveRequest ⟨tag, .halt⟩)

/-- WRITE_CONFIG (R10); data that is not 64 bytes makes a record of the wrong length, discarded with no reply (R181,
log 23). -/
def execWriteConfig (tag : Byte) (offset : Nat) (data : List Byte) (s : State) : Host.Outcome State Fault Refusal :=
  .next (if data.length = Config.blockBytes then s.receiveRequest ⟨tag, .writeConfig offset data⟩ else s)

/-- OPERATE (R168, R145). -/
def execOperate (tag : Byte) (urgency point target : Nat) (s : State) : Host.Outcome State Fault Refusal :=
  .next (s.receiveRequest ⟨tag, .operate urgency point target⟩)

/-- PROGRAM (R168, R145). -/
def execProgram (tag : Byte) (urgency : Nat) (steps : List StepField) (s : State) : Host.Outcome State Fault Refusal :=
  .next (s.receiveRequest ⟨tag, .program urgency steps⟩)

/-- CANCEL (R157). -/
def execCancel (tag : Byte) (handle : Nat) (s : State) : Host.Outcome State Fault Refusal :=
  .next (s.receiveRequest ⟨tag, .cancel handle⟩)

/-- CHECK (R88). -/
def execCheck (tag : Byte) (point target : Nat) (s : State) : Host.Outcome State Fault Refusal :=
  .next (s.receiveRequest ⟨tag, .check point target⟩)

/-- READ_POINT (R54). -/
def execReadPoint (tag : Byte) (point : Nat) (s : State) : Host.Outcome State Fault Refusal :=
  .next (s.receiveRequest ⟨tag, .readPoint point⟩)

/-- READ_NODE (R73). -/
def execReadNode (tag : Byte) (node : Nat) (s : State) : Host.Outcome State Fault Refusal :=
  .next (s.receiveRequest ⟨tag, .readNode node⟩)

/-- READ_CLAIMS (R144). -/
def execReadClaims (tag : Byte) (s : State) : Host.Outcome State Fault Refusal :=
  .next (s.receiveRequest ⟨tag, .readClaims⟩)

/-- READ_EVENT (R171). -/
def execReadEvent (tag : Byte) (s : State) : Host.Outcome State Fault Refusal :=
  .next (s.receiveRequest ⟨tag, .readEvent⟩)

/-- READ_CAPTURE (R174). -/
def execReadCapture (tag : Byte) (s : State) : Host.Outcome State Fault Refusal :=
  .next (s.receiveRequest ⟨tag, .readCapture⟩)

/-- UNLOCK_CAPTURE (R174). -/
def execUnlockCapture (tag : Byte) (s : State) : Host.Outcome State Fault Refusal :=
  .next (s.receiveRequest ⟨tag, .unlockCapture⟩)

/-- CLEAR_FAULT_SWITCH (R175). -/
def execClearFaultSwitch (tag : Byte) (point : Nat) (s : State) : Host.Outcome State Fault Refusal :=
  .next (s.receiveRequest ⟨tag, .clearFaultSwitch point⟩)

/-- CLEAR_FAULT_LINK (R176). -/
def execClearFaultLink (tag : Byte) (s : State) : Host.Outcome State Fault Refusal :=
  .next (s.receiveRequest ⟨tag, .clearFaultLink⟩)

/-- UNKNOWN_REQUEST_TYPE (R166, R181); a type that the unit knows has no effect (log 23). -/
def execUnknownRequestType (tag : Byte) (type : Nat) (s : State) : Host.Outcome State Fault Refusal :=
  .next (if knownTypes.contains type then s else s.receiveRequest ⟨tag, .unknown type⟩)

/-- REQUEST_RECORD_DISCARD: a completed record goes through the length and check test of R181 and is discarded with
no reply when it fails; one that passes is the request it is (log 22). -/
def execRequestRecordDiscard (record : List Byte) (s : State) : Host.Outcome State Fault Refusal :=
  .next (s.receiveRecord record)

/-- OVERRUN: a further request completed while one is in hand and another waits (R166, log 2). -/
def execOverrun (tag : Byte) (type : Nat) (s : State) : Host.Outcome State Fault Refusal :=
  .next (if s.supplied = true ∧ s.port.inHand.isSome = true ∧ s.port.waiting.isSome = true then
    s.reply ⟨tag, .unknown type⟩ .overrun .none
  else s)

/-- RECORD_GAP_TIMEOUT: bytes received without a gap, then a gap of 5 ms. What is not complete is discarded with no
reply (R181); records completed before it are taken (log 22). -/
def execRecordGapTimeout (bytes : List Byte) (s : State) : Host.Outcome State Fault Refusal :=
  .next (receiveRecords (completedRecords bytes.length bytes) s)

end Sys2Proof.Machine
end

