-- ==== Sys2Proof/Machine/Control.lean ====
section
/-! DEFINITION. Start-up control's commands (section 1.5): supply, the end of loading, the quiet time, the storing of
a block and the frames of an orderly stop. -/
namespace Sys2Proof.Machine

/-! ### The end of an orderly stop (R16, R17, R166) -/

/-- The halt after an orderly stop: HALTED with HALT_REQUEST, the sequencer as after a start, then the reply OK
(R16, R165; DEDUCED, log 31). -/
def State.haltAnswered (s : State) : State :=
  let s1 := s.enterHalt
  match s1.port.inHand with
  | some t => s1.answer t .ok .none
  | none => s1

/-- The orderly stop has made its last attempt: the start of the RESTART begins and releases it, or the unit is HALTED
and the HALT answered; the waiting request is then taken (R166). -/
def State.finishStop (s : State) : State :=
  match s.ctl.stopping with
  | some .restart => (s.start .restart).release.pump
  | some .halt => s.haltAnswered.pump
  | none => s

/-- The frame of the stop in hand is done with: the next is taken in hand, or the stop ends (R106). -/
def State.nextStopFrame (s : State) : State :=
  let s1 := s.setLink { s.link with inHand := none, stage := .idle }
  if s1.link.txList = [] then s1.finishStop else s1.takeHead

/-- An orderly stop is under way. -/
def State.inStop (s : State) : Bool := s.supplied && s.ctl.mode == .run && s.ctl.stopping.isSome

/-- An outcome that the attempt in progress can have reached by now: SENT after its last byte, LOST 200 µs after it
(R96). -/
def State.outcomeReached (s : State) (o : Attempt) : Bool :=
  match o with
  | .lost => s.echoTimedOut
  | .sent => s.link.stage.awaiting
  | .collided => s.link.stage.attempting

/-- The frame of the stop in hand has waited 5 ms for its spell of idle medium (R106). The frame still waits while no
IDLE_SPELL_COMPLETE has been taken, even if its spell is complete by now (DESIGN CHOICE, log 35). -/
def State.skipDue (s : State) : Bool :=
  match s.link.stage, s.link.inHand with
  | .deferring _, some h => decide (h.takenAt + Config.skipUs ≤ s.micros)
  | _, _ => false

/-- A block is stored whole, and the WRITE_CONFIG in hand is answered (R10). -/
def State.blockStored (s : State) (w : BlockWrite) : State :=
  let s1 := s.storeBlock w
  match s1.port.inHand with
  | some t => (s1.answer t .ok .none).pump
  | none => s1

/-! ### The commands -/

/-- POWER_ON: supply applied, a power-on start (R13). A unit that has supply loses it first (log 5). -/
def execPowerOn (s : State) : Host.Outcome State Fault Refusal :=
  .next (if s.supplied then s.loseSupply.powerOnStart else s.powerOnStart)

/-- SUPPLY_FAILURE (R10, R15). -/
def execSupplyFailure (s : State) : Host.Outcome State Fault Refusal :=
  .next (if s.supplied then s.loseSupply else s)

/-- LOADING_END (R11 to R13). -/
def execLoadingEnd (s : State) : Host.Outcome State Fault Refusal :=
  .next (if s.supplied = true ∧ s.ctl.mode = .loading then s.endLoading else s)

/-- QUIET_TIME_EXPIRY (R14, R15). -/
def execQuietTimeExpiry (s : State) : Host.Outcome State Fault Refusal :=
  .next (if s.supplied = true ∧ s.ctl.mode = .quiet ∧ s.reached s.ctl.quietEnd = true then s.enterRun else s)

/-- CONFIG_BLOCK_STORED (R10). -/
def execConfigBlockStored (s : State) : Host.Outcome State Fault Refusal :=
  .next (match s.ctl.blockWrite with
    | some w => if s.supplied then s.blockStored w else s
    | none => s)

/-- STOP_FRAME_OUTCOME: an attempt of an orderly stop's frame ends, whatever its outcome (R106). -/
def execStopFrameOutcome (outcome : Attempt) (s : State) : Host.Outcome State Fault Refusal :=
  .next (if s.inStop = true ∧ s.outcomeReached outcome = true then s.nextStopFrame else s)

/-- STOP_FRAME_SKIP: the medium has not given the spell within 5 ms (R106). -/
def execStopFrameSkip (s : State) : Host.Outcome State Fault Refusal :=
  .next (if s.inStop = true ∧ s.skipDue = true then s.nextStopFrame else s)

end Sys2Proof.Machine
end

