-- ==== Sys2Proof/Machine/Dispatch.lean ====
section
/-! DEFINITION. exec: one arm per command, each one direct call of the command's meaning. -/
namespace Sys2Proof.Machine

/-- A command's effect on everything but the queue of waiting commands. -/
def exec (i : Instr) (s : State) : Host.Outcome State Fault Refusal :=
  match i with
  | .powerOn => Sys2Proof.Machine.execPowerOn s
  | .supplyFailure => Sys2Proof.Machine.execSupplyFailure s
  | .loadingEnd => Sys2Proof.Machine.execLoadingEnd s
  | .quietTimeExpiry => Sys2Proof.Machine.execQuietTimeExpiry s
  | .readStatus tag => Sys2Proof.Machine.execReadStatus tag s
  | .restart tag => Sys2Proof.Machine.execRestart tag s
  | .halt tag => Sys2Proof.Machine.execHalt tag s
  | .writeConfig tag offset data => Sys2Proof.Machine.execWriteConfig tag offset data s
  | .configBlockStored => Sys2Proof.Machine.execConfigBlockStored s
  | .stopFrameOutcome outcome => Sys2Proof.Machine.execStopFrameOutcome outcome s
  | .stopFrameSkip => Sys2Proof.Machine.execStopFrameSkip s
  | .operate tag urgency point target => Sys2Proof.Machine.execOperate tag urgency point target s
  | .program tag urgency steps => Sys2Proof.Machine.execProgram tag urgency steps s
  | .cancel tag handle => Sys2Proof.Machine.execCancel tag handle s
  | .check tag point target => Sys2Proof.Machine.execCheck tag point target s
  | .readPoint tag point => Sys2Proof.Machine.execReadPoint tag point s
  | .readNode tag node => Sys2Proof.Machine.execReadNode tag node s
  | .readClaims tag => Sys2Proof.Machine.execReadClaims tag s
  | .readEvent tag => Sys2Proof.Machine.execReadEvent tag s
  | .readCapture tag => Sys2Proof.Machine.execReadCapture tag s
  | .unlockCapture tag => Sys2Proof.Machine.execUnlockCapture tag s
  | .clearFaultSwitch tag point => Sys2Proof.Machine.execClearFaultSwitch tag point s
  | .clearFaultLink tag => Sys2Proof.Machine.execClearFaultLink tag s
  | .unknownRequestType tag type => Sys2Proof.Machine.execUnknownRequestType tag type s
  | .requestRecordDiscard record => Sys2Proof.Machine.execRequestRecordDiscard record s
  | .overrun tag type => Sys2Proof.Machine.execOverrun tag type s
  | .recordGapTimeout bytes => Sys2Proof.Machine.execRecordGapTimeout bytes s
  | .rawInputChange line made => Sys2Proof.Machine.execRawInputChange line made s
  | .filterTimerExpiry input => Sys2Proof.Machine.execFilterTimerExpiry input s
  | .runTimeExpiry => Sys2Proof.Machine.execRunTimeExpiry s
  | .stuckTimerExpiry switch => Sys2Proof.Machine.execStuckTimerExpiry switch s
  | .driveEndReport => Sys2Proof.Machine.execDriveEndReport s
  | .claimDeadline => Sys2Proof.Machine.execClaimDeadline s
  | .guardReleaseTime => Sys2Proof.Machine.execGuardReleaseTime s
  | .guardDeadline => Sys2Proof.Machine.execGuardDeadline s
  | .bulletin sender revision stateNo repeatNo holdMs items => Sys2Proof.Machine.execBulletin sender revision stateNo repeatNo holdMs items s
  | .damagedFrame bytes => Sys2Proof.Machine.execDamagedFrame bytes s
  | .peerExpiry unit => Sys2Proof.Machine.execPeerExpiry unit s
  | .storedTimeLapse which => Sys2Proof.Machine.execStoredTimeLapse which s
  | .ask sender revision zone urgency defer lifetime => Sys2Proof.Machine.execAsk sender revision zone urgency defer lifetime s
  | .hold sender revision zone urgency defer holdMs => Sys2Proof.Machine.execHold sender revision zone urgency defer holdMs s
  | .drop sender revision zone => Sys2Proof.Machine.execDrop sender revision zone s
  | .yieldRequest sender revision zone urgency => Sys2Proof.Machine.execYieldRequest sender revision zone urgency s
  | .secondAskTime zone => Sys2Proof.Machine.execSecondAskTime zone s
  | .windowEnd zone => Sys2Proof.Machine.execWindowEnd zone s
  | .refreshTime zone => Sys2Proof.Machine.execRefreshTime zone s
  | .peerEntryExpiry zone unit => Sys2Proof.Machine.execPeerEntryExpiry zone unit s
  | .bulletinDue => Sys2Proof.Machine.execBulletinDue s
  | .mediumBusy => Sys2Proof.Machine.execMediumBusy s
  | .idleSpellComplete => Sys2Proof.Machine.execIdleSpellComplete s
  | .echoMatched => Sys2Proof.Machine.execEchoMatched s
  | .echoMismatch => Sys2Proof.Machine.execEchoMismatch s
  | .echoTimeout => Sys2Proof.Machine.execEchoTimeout s
  | .probeTimerExpiry => Sys2Proof.Machine.execProbeTimerExpiry s
  | .mediumIdle => Sys2Proof.Machine.execMediumIdle s

end Sys2Proof.Machine
end

