-- ==== Sys2Proof/Machine/Time.lean ====
section
/-! DEFINITION. The passing of a microsecond (log 1): the clock of R119 runs while there is supply, and a
transmission whose last byte has gone waits for its echo (R96). -/
namespace Sys2Proof.Machine

/-- The last byte of an attempt has been sent by microsecond `t`: SENDING becomes ECHO_WAIT (R96, R97). -/
def txAdvance (t : Nat) : TxStage → TxStage
  | .sending lastByte => if lastByte ≤ t then .echoWait lastByte else .sending lastByte
  | .idle => .idle
  | .deferring since => .deferring since
  | .echoWait lastByte => .echoWait lastByte

/-- A microsecond passes. Without supply the clock does not run (log 4). -/
def tick (s : State) : State :=
  if s.supplied then
    (s.setMicros (s.micros + 1)).setLink { s.link with stage := txAdvance (s.micros + 1) s.link.stage }
  else s

end Sys2Proof.Machine
end

