-- ==== Sys2Proof/WellFormed.lean ====
section
/-! DEFINITION. Which commands are well formed: every operand fits the field that carries it (sections
12.2 and 12.3) or names an input the unit has (R8). What a meaning does with an ill-formed command is
said in log 23. -/
namespace Sys2Proof

/-- Fits a one-byte field. -/
def fits8 (n : Nat) : Bool := n < 256
/-- Fits a two-byte field. -/
def fits16 (n : Nat) : Bool := n < 65536
/-- A number in 1..n. -/
def inRange (n x : Nat) : Bool := 1 ≤ x && x ≤ n

/-- The request types of R181's table. -/
def knownRequestType (t : Nat) : Bool :=
  [0x01, 0x02, 0x03, 0x04, 0x10, 0x11, 0x12, 0x13, 0x20, 0x21, 0x22, 0x23, 0x24, 0x25, 0x30, 0x31].contains t

/-- A raw line the unit has (R8, X1 and X2). -/
def Line.wellFormed : Line → Bool
  | .contactOpen p => inRange 24 p
  | .contactClosed p => inRange 24 p
  | .presence i => inRange 4 i
  | .healthy i => inRange 4 i
  | .binary i => inRange 8 i
  | .selRemote => true
  | .selLocal => true

def Item.wellFormed (i : Item) : Bool := fits16 i.point
def StepField.wellFormed (f : StepField) : Bool := fits16 f.point && fits8 f.target

/-- Every operand fits its field. -/
def Instr.wellFormed : Instr → Bool
  | .powerOn => true
  | .supplyFailure => true
  | .loadingEnd => true
  | .quietTimeExpiry => true
  | .readStatus _ => true
  | .restart _ => true
  | .halt _ => true
  | .writeConfig _ offset data => fits16 offset && data.length == Config.blockBytes
  | .configBlockStored => true
  | .stopFrameOutcome _ => true
  | .stopFrameSkip => true
  | .operate _ urgency point target => fits8 urgency && fits16 point && fits8 target
  | .program _ urgency steps => fits8 urgency && fits8 steps.length && steps.all StepField.wellFormed
  | .cancel _ handle => fits8 handle
  | .check _ point target => fits16 point && fits8 target
  | .readPoint _ point => fits16 point
  | .readNode _ node => fits8 node
  | .readClaims _ => true
  | .readEvent _ => true
  | .readCapture _ => true
  | .unlockCapture _ => true
  | .clearFaultSwitch _ point => fits16 point
  | .clearFaultLink _ => true
  | .unknownRequestType _ type => fits8 type && !knownRequestType type
  | .requestRecordDiscard _ => true
  | .overrun _ type => fits8 type
  | .recordGapTimeout _ => true
  | .rawInputChange line _ => line.wellFormed
  | .filterTimerExpiry (.point id) => fits16 id
  | .filterTimerExpiry .selector => true
  | .runTimeExpiry => true
  | .stuckTimerExpiry switch => fits16 switch
  | .driveEndReport => true
  | .claimDeadline => true
  | .guardReleaseTime => true
  | .guardDeadline => true
  | .bulletin sender revision _ _ holdMs items =>
      fits8 sender && fits16 revision && fits16 holdMs && decide (items.length ≤ Config.maxItems) &&
        items.all Item.wellFormed
  | .damagedFrame _ => true
  | .peerExpiry unit => inRange Config.maxUnit unit
  | .storedTimeLapse (.completion switch) => fits16 switch
  | .storedTimeLapse (.movement zone) => inRange Config.maxZone zone
  | .ask sender revision zone urgency defer lifetime =>
      fits8 sender && fits16 revision && fits8 zone && fits8 urgency && fits8 defer && fits16 lifetime
  | .hold sender revision zone urgency defer holdMs =>
      fits8 sender && fits16 revision && fits8 zone && fits8 urgency && fits8 defer && fits16 holdMs
  | .drop sender revision zone => fits8 sender && fits16 revision && fits8 zone
  | .yieldRequest sender revision zone urgency =>
      fits8 sender && fits16 revision && fits8 zone && fits8 urgency
  | .secondAskTime zone => inRange Config.maxZone zone
  | .windowEnd zone => inRange Config.maxZone zone
  | .refreshTime zone => inRange Config.maxZone zone
  | .peerEntryExpiry zone unit => inRange Config.maxZone zone && inRange Config.maxUnit unit
  | .bulletinDue => true
  | .mediumBusy => true
  | .idleSpellComplete => true
  | .echoMatched => true
  | .echoMismatch => true
  | .echoTimeout => true
  | .probeTimerExpiry => true
  | .mediumIdle => true

end Sys2Proof
end

