-- ==== Sys2Proof/Safety.lean ====
section
/-! DEFINITION. What the statements speak of: shapes of a next state in the manual's terms, and the invariants of a
safe unit. -/
namespace Sys2Proof.Machine

/-! ### Events, offers and replies -/

/-- Events handed to the bay port in order (R170). -/
def State.raise (s : State) (l : List EventBody) : State := l.foldl State.event s

/-- Frames offered to the transmit list in order (R92). -/
def State.offers (s : State) (l : List FrameBody) : State := l.foldl State.offer s

/-- The unit takes a request at once: it has supply and no request is in hand (R166). -/
def State.free (s : State) : Prop := s.supplied = true ∧ s.port.inHand = none

/-- The state with one reply more, no request in hand, and nothing else changed. -/
def State.replied (s : State) (type : Nat) (tag : Byte) (status : ReplyStatus) (body : ReplyBody) : State :=
  { s with port := { s.port with inHand := none, replies := s.port.replies ++ [⟨type, tag, status, body⟩] } }

/-- The state with a request in hand, not yet taken (R166). -/
def State.holding (s : State) (tag : Byte) (r : Request) : State :=
  { s with port := { s.port with inHand := some ⟨tag, r⟩ } }

/-! ### Requests and frames as commands -/

/-- The command that carries a request. -/
def commandOf (tag : Byte) : Request → Instr
  | .readStatus => .readStatus tag
  | .restart => .restart tag
  | .halt => .halt tag
  | .writeConfig offset data => .writeConfig tag offset data
  | .operate urgency point target => .operate tag urgency point target
  | .program urgency steps => .program tag urgency steps
  | .cancel handle => .cancel tag handle
  | .check point target => .check tag point target
  | .readPoint point => .readPoint tag point
  | .readNode node => .readNode tag node
  | .readClaims => .readClaims tag
  | .readEvent => .readEvent tag
  | .readCapture => .readCapture tag
  | .unlockCapture => .unlockCapture tag
  | .clearFaultSwitch point => .clearFaultSwitch tag point
  | .clearFaultLink => .clearFaultLink tag
  | .unknown type => .unknownRequestType tag type

/-- A request that a record can carry: 64 bytes of data, a type that is unknown if it is said to be. -/
def Sendable : Request → Prop
  | .writeConfig _ data => data.length = 64
  | .unknown type => knownTypes.contains type = false
  | _ => True

/-- The fields of a request record, by R181's table. -/
def requestFields : Request → List Byte
  | .writeConfig offset data => enc16 offset ++ data
  | .operate urgency point target => [byteOf urgency] ++ enc16 point ++ [byteOf target]
  | .program urgency steps =>
    [byteOf urgency, byteOf steps.length] ++ steps.flatMap fun f => enc16 f.point ++ [byteOf f.target]
  | .cancel handle => [byteOf handle]
  | .check point target => enc16 point ++ [byteOf target]
  | .readPoint point | .clearFaultSwitch point => enc16 point
  | .readNode node => [byteOf node]
  | .readStatus | .restart | .halt | .readClaims | .readEvent | .readCapture | .unlockCapture | .clearFaultLink => []
  | .unknown _ => []

/-- A request record: its length, type, tag, fields and CRC (section 12.3, R179). -/
def recordBytes (type : Nat) (tag : Byte) (fields : List Byte) : List Byte :=
  sealCrc (enc16 (fields.length + 6) ++ [byteOf type, tag] ++ fields)

/-- Commands taken one after the other. -/
def inTurn : List Instr → State → Host.Outcome State Fault Refusal
  | [], s => .next s
  | c :: rest, s =>
    match exec c s with
    | .next t => inTurn rest t
    | stop => stop

/-- The command that carries a frame heard. -/
def frameCommand (f : Frame) : Instr :=
  match f.body with
  | .bulletin n r hold items => .bulletin f.sender f.revision n r hold items
  | .ask z u d life => .ask f.sender f.revision z u d life
  | .hold z u d ms => .hold f.sender f.revision z u d ms
  | .drop z => .drop f.sender f.revision z
  | .yieldRequest z u => .yieldRequest f.sender f.revision z u

/-- Every field of a frame fits the bytes that carry it, and a bulletin has at most 24 items (section 12.2, R180). -/
def Frame.wellFormed (f : Frame) : Bool := Instr.wellFormed (frameCommand f)

/-- A frame of this unit's yard revision from another unit reaches the image or the claim controller: frames are
received, it is no echo, and its sender is one of the 48 (R105). -/
def State.hears (s : State) (sender revision : Nat) : Prop :=
  s.receiving = true ∧ s.isEcho = false ∧ 1 ≤ sender ∧ sender ≤ 48 ∧ sender ≠ s.unit ∧ revision = s.ctl.model.revision

/-- The state after the revision check of such a frame: the sender's mismatch-reported flag is clear (R44). -/
def State.heardFrom (s : State) (sender : Nat) : State := s.mapPeer sender fun p => { p with mismatch := false }

/-! ### Starts and the store -/

/-- The bytes of the store after a block has been written: the block's data in its 64 bytes, the old bytes elsewhere. -/
def BlockIn (s t : State) (w : BlockWrite) : Prop :=
  ∀ a, storeRead t.ctl.store a =
    if w.offset ≤ a ∧ a < w.offset + 64 then w.data.getD (a - w.offset) 0xFF else storeRead s.ctl.store a

/-- Every byte of the store is old, or the block that was being stored is in it whole (R10). -/
def OldOrNew (s t : State) : Prop :=
  (∀ a, storeRead t.ctl.store a = storeRead s.ctl.store a) ∨ ∃ w, s.ctl.blockWrite = some w ∧ BlockIn s t w

/-- The next state holds every value that a start gives (R13, R38, R56, R107, R108, R143, R165, R177); the lines, the
medium, the replies sent and the waiting commands are as before. -/
def StartValues (s t : State) (cause : StartCause) (time : Time) : Prop :=
  t.supplied = true ∧ t.ctl.mode = .loading ∧ t.ctl.haltCause = none ∧ t.ctl.startCause = cause ∧
  t.ctl.stopping = none ∧ t.ctl.blockWrite = none ∧
  t.bay.drive = none ∧ t.bay.report = none ∧ t.bay.points = [] ∧ t.bay.selector = ⟨none, none⟩ ∧
  t.bay.selectorState = .atBay ∧ t.coils = [] ∧ t.bay.lines = s.bay.lines ∧
  t.image.entries = [] ∧ t.image.moves = [] ∧ t.image.peers.map (·.unit) = List.range' 1 48 ∧
  (∀ p ∈ t.image.peers, p.status = .never ∧ p.lastState = 0 ∧ p.lastRepeat = 0 ∧ p.mismatch = false) ∧
  t.claims.zones = [] ∧ t.claims.job = none ∧
  t.seq.queue = [] ∧ t.seq.active = none ∧ t.seq.nextHandle = 1 ∧
  t.pub.stateNo = none ∧ t.pub.repeatNo = 0 ∧ t.pub.stage = .stopped ∧
  t.link.txList = [] ∧ t.link.inHand = none ∧ t.link.stage = .idle ∧ t.link.mode = .active ∧ t.link.dup = false ∧
  t.link.probeTimer = none ∧ t.link.mediumBusy = s.link.mediumBusy ∧
  t.port.events = [⟨time, .start cause⟩] ∧ t.port.lost = false ∧ t.port.capture = none ∧ t.alert = true ∧
  t.pending = s.pending

/-- Where a spell of idle medium that begins now is counted from (R94). -/
def State.spellNow (s : State) : Option Nat := if s.link.mediumBusy then none else some s.micros

/-- The frames an orderly stop sends: a DROP for each zone HELD in ascending order, then the withdrawal (R17, R118). -/
def stopSequence (s : State) : List Frame :=
  (s.heldZones.map fun z => ⟨s.unit, s.ctl.model.revision, .drop z⟩) ++
    [⟨s.unit, s.ctl.model.revision, .bulletin (s.pub.stateNo.getD 0) s.pub.repeatNo 0 []⟩]

/-- An orderly stop has begun (R17, R106, R118): the coil is off, the first frame of the stop is in hand for its
attempt, the others wait, the schedule is stopped, and nothing else has changed. -/
def StopBegun (s t : State) (why : StopReason) : Prop :=
  ∃ first rest, stopSequence s = first :: rest ∧
    t = { s with
      ctl := { s.ctl with stopping := some why }
      bay := { s.bay with drive := none, report := none }
      link := { s.link with txList := rest, inHand := some ⟨first, 0, true, s.micros⟩, stage := .deferring s.spellNow }
      pub := { s.pub with stage := .stopped } } ∧
    t.coils = []

/-- What follows a frame of an orderly stop (R106, R16, R17): the next frame is taken in hand; after the last, the
start of the RESTART begins and releases it, or the unit is HALTED, the sequencer as after a start (R165), and the HALT
is answered OK. -/
def StopGoesOn (s t : State) : Prop :=
  (∀ f rest, s.link.txList = f :: rest →
    t = { s with link := { s.link with
      txList := rest, inHand := some ⟨f, 0, true, s.micros⟩, stage := .deferring s.spellNow } }) ∧
  (s.link.txList = [] → s.ctl.stopping = some .restart →
    StartValues s t .restart s.now ∧ t.micros = s.micros ∧ t.ctl.store = s.ctl.store ∧ t.port.inHand = none ∧
    t.port.waiting = s.port.waiting ∧ t.port.replies = s.port.replies) ∧
  (s.link.txList = [] → s.ctl.stopping = some .halt → ∀ tg, s.port.inHand = some tg →
    t = { s with
      ctl := { s.ctl with mode := .halted, haltCause := some .haltRequest, stopping := none }
      link := { s.link with inHand := none, stage := .idle }
      seq := ⟨[], none, 1⟩
      port := { s.port with
        inHand := none, replies := s.port.replies ++ [⟨requestTypeCode tg.request, tg.tag, .ok, .none⟩] } })

/-! ### The configuration image (R12, R182, section 12.6) -/

/-- What an image says, field by field: the header, the nine times in the header's order, and the records of the sections,
numbers, kinds and values as stored. -/
structure StoredImage where
  unit : Nat
  revision : Nat
  highNode : Nat
  recovery : Nat
  times : List Nat
  points : List RawPoint
  locals : List RawLocal
  zones : List ZoneDef
  deriving DecidableEq, Repr

/-- A point's record. -/
def RawPoint.bytes (p : RawPoint) : List Byte :=
  enc16 p.id ++ [byteOf p.kind, byteOf p.owner, byteOf p.nodeA, byteOf p.nodeB]

/-- A condition's record. -/
def RawCondition.bytes (c : RawCondition) : List Byte := enc16 c.point ++ [c.value]

/-- A record of local settings. -/
def RawLocal.bytes (l : RawLocal) : List Byte :=
  enc16 l.point ++ [byteOf l.input, byteOf l.coil] ++ enc16 l.runTime ++ enc16 l.recovery ++
    [byteOf l.closeConditions.length, byteOf l.openConditions.length] ++
    (l.closeConditions ++ l.openConditions).flatMap RawCondition.bytes

/-- A zone's record. -/
def zoneBytes (z : ZoneDef) : List Byte := byteOf z.number :: byteOf z.nodes.length :: z.nodes.map byteOf

/-- The sections after the header (section 12.6). -/
def StoredImage.sections (d : StoredImage) : List Byte :=
  d.points.flatMap RawPoint.bytes ++
    byteOf d.locals.length :: (d.locals.flatMap RawLocal.bytes ++ d.zones.flatMap zoneBytes)

/-- The bytes of an image: length, header, sections and CRC (section 12.6, R179). -/
def StoredImage.bytes (d : StoredImage) : List Byte :=
  sealCrc (enc16 (30 + d.sections.length) ++ [byteOf d.unit] ++ enc16 d.revision ++ [byteOf d.highNode] ++
    enc16 d.points.length ++ [byteOf d.zones.length, byteOf d.recovery] ++ d.times.flatMap enc16 ++ d.sections)

/-- Every number of a point's record fits its bytes. -/
def RawPoint.Fits (p : RawPoint) : Prop := p.id < 65536 ∧ p.kind < 256 ∧ p.owner < 256 ∧ p.nodeA < 256 ∧ p.nodeB < 256

/-- Every number of a record of local settings fits its bytes. -/
def RawLocal.Fits (l : RawLocal) : Prop :=
  l.point < 65536 ∧ l.input < 256 ∧ l.coil < 256 ∧ l.runTime < 65536 ∧ l.recovery < 65536 ∧
  l.closeConditions.length < 256 ∧ l.openConditions.length < 256 ∧
  ∀ c ∈ l.closeConditions ++ l.openConditions, c.point < 65536

/-- Every number of a zone's record fits its bytes. -/
def ZoneFits (z : ZoneDef) : Prop := z.number < 256 ∧ z.nodes.length < 256 ∧ ∀ n ∈ z.nodes, n < 256

/-- Every number of an image fits the bytes that carry it. -/
def StoredImage.Fits (d : StoredImage) : Prop :=
  d.unit < 256 ∧ d.revision < 65536 ∧ d.highNode < 256 ∧ d.recovery < 256 ∧ d.times.length = 9 ∧
  (∀ t ∈ d.times, t < 65536) ∧ d.points.length < 65536 ∧ d.locals.length < 256 ∧ d.zones.length < 256 ∧
  (∀ p ∈ d.points, p.Fits) ∧ (∀ l ∈ d.locals, l.Fits) ∧ ∀ z ∈ d.zones, ZoneFits z

/-- The store holds the image from offset 0 on; the bytes after it are any. -/
def StoredIn (d : StoredImage) (store : List Host.Cell) : Prop :=
  d.Fits ∧ d.bytes.length ≤ 16384 ∧ (List.range d.bytes.length).map (storeRead store) = d.bytes

/-- A stored figure, or its default where it is unstated (R8, R9, section 12.6). -/
def statedOr (dflt x : Nat) : Nat := if x = 0xFFFF then dflt else x

/-- A time of the header, or its default (R9). -/
def StoredImage.time (d : StoredImage) (i dflt : Nat) : Nat := statedOr dflt (d.times.getD i 0xFFFF)

/-- A stored figure is unstated or within its range (R8, R9, section 12.6). -/
def Allowed (lo hi x : Nat) : Prop := x = 0xFFFF ∨ lo ≤ x ∧ x ≤ hi

/-- A kind code of a switch: BREAKER, DISCONNECTOR or EARTHING, 1 to 3 (section 12.5); VOLTAGE is 4 and BINARY 5. -/
def SwitchCode (kind : Nat) : Prop := 1 ≤ kind ∧ kind ≤ 3

/-- The kind code of the first point that bears an id (log 32). -/
def StoredImage.kindCode (d : StoredImage) (id : Nat) : Option Nat :=
  (d.points.find? fun p => p.id == id).map (·.kind)

/-- Check 4 on a record of local settings, by the kind code of the point it names (R8, R12, log 33). -/
def RawLocal.SettingsAllowed (l : RawLocal) (kind : Nat) : Prop :=
  (SwitchCode kind → 1 ≤ l.input ∧ l.input ≤ 24 ∧ 1 ≤ l.coil ∧ l.coil ≤ 12 ∧ Allowed 50 30000 l.runTime ∧
    Allowed 0 10000 l.recovery) ∧
  (kind = 4 ∨ kind = 5 → 1 ≤ l.input ∧ l.input ≤ (if kind = 4 then 4 else 8) ∧ l.coil = 0 ∧ l.runTime = 0xFFFF ∧
    l.recovery = 0xFFFF ∧ l.closeConditions = [] ∧ l.openConditions = [])

/-- Check 4 on two records of local settings: no input and no coil is named twice among switches, among voltage points or
among binary points (R8, R12). -/
def StoredImage.InputsApart (d : StoredImage) (l m : RawLocal) : Prop :=
  ∀ j k, d.kindCode l.point = some j → d.kindCode m.point = some k →
    (SwitchCode j → SwitchCode k → l.input ≠ m.input ∧ l.coil ≠ m.coil) ∧
    (j = 4 ∨ j = 5 → j = k → l.input ≠ m.input)

/-- The validity check of each number (R12). Check 3's counts of local points are of the points this unit owns and of the
records of local settings (log 14). -/
def StoredImage.Passes (d : StoredImage) : Nat → Prop
  | 1 => 1 ≤ d.unit ∧ d.unit ≤ 48
  | 2 => d.revision ≠ 0
  | 3 =>
    let mine := d.points.filter fun p => p.owner = d.unit
    1 ≤ d.highNode ∧ d.highNode ≤ 127 ∧ d.points.length ≤ 256 ∧ d.locals.length ≤ 24 ∧ mine.length ≤ 24 ∧
    (d.points.filter fun p => 1 ≤ p.kind ∧ p.kind ≤ 3).length ≤ 192 ∧
    (mine.filter fun p => 1 ≤ p.kind ∧ p.kind ≤ 3).length ≤ 12 ∧
    (d.points.filter fun p => p.kind = 4).length ≤ 32 ∧ (mine.filter fun p => p.kind = 4).length ≤ 4 ∧
    (mine.filter fun p => p.kind = 5).length ≤ 8 ∧ d.zones.length ≤ 24 ∧
    ∀ l ∈ d.locals, l.closeConditions.length ≤ 4 ∧ l.openConditions.length ≤ 4
  | 4 =>
    (∀ p ∈ d.points, 1 ≤ p.kind ∧ p.kind ≤ 5 ∧ 1 ≤ p.owner ∧ p.owner ≤ 48) ∧
    List.Forall₂ (fun (r : Nat × Nat) x => Allowed r.1 r.2 x)
      [(5, 100), (2, 50), (500, 10000), (10, 1000), (20, 500), (200, 2000), (1, 60), (5, 120), (0, 5000)] d.times ∧
    (d.recovery = 1 ∨ d.recovery = 2 ∨ d.recovery = 0xFF) ∧
    (∀ l ∈ d.locals, ∀ k, d.kindCode l.point = some k → l.SettingsAllowed k) ∧ d.locals.Pairwise d.InputsApart
  | 5 => (∀ p ∈ d.points, 1 ≤ p.id ∧ p.id ≤ 65535) ∧ (d.points.map (·.id)).Nodup
  | 6 =>
    (∀ p ∈ d.points, p.owner = d.unit → ∃ l ∈ d.locals, l.point = p.id) ∧ (d.locals.map (·.point)).Nodup ∧
    ∀ l ∈ d.locals, ∃ p ∈ d.points, p.id = l.point ∧ p.owner = d.unit
  | 7 =>
    (∀ p ∈ d.points,
      (p.kind = 1 ∨ p.kind = 2 → 1 ≤ p.nodeA ∧ p.nodeA ≤ d.highNode ∧ 1 ≤ p.nodeB ∧ p.nodeB ≤ d.highNode ∧
        p.nodeA ≠ p.nodeB) ∧
      (p.kind = 3 → 1 ≤ p.nodeA ∧ p.nodeA ≤ d.highNode ∧ p.nodeB = 0) ∧
      (p.kind = 4 → 1 ≤ p.nodeA ∧ p.nodeA ≤ d.highNode)) ∧
    ((d.points.filter fun p => p.kind = 4).map (·.nodeA)).Nodup
  | 8 =>
    (∀ z ∈ d.zones, 1 ≤ z.number ∧ z.number ≤ 24 ∧ 1 ≤ z.nodes.length ∧ z.nodes.length ≤ 16 ∧ z.nodes.Nodup ∧
      ∀ n ∈ z.nodes, 1 ≤ n ∧ n ≤ d.highNode) ∧ (d.zones.map (·.number)).Nodup
  | 9 =>
    ∀ l ∈ d.locals, ∀ c ∈ l.closeConditions ++ l.openConditions, ∃ p ∈ d.points, p.id = c.point ∧
      (SwitchCode p.kind ∧ (c.value = 1 ∨ c.value = 2) ∨ p.kind = 4 ∧ (c.value = 5 ∨ c.value = 6) ∨
        p.kind = 5 ∧ (c.value = 7 ∨ c.value = 8))
  | 10 => 2 * d.time 4 60 < d.time 5 500
  | 11 => 8 * d.time 1 4 ≤ d.time 2 2000
  | _ => True

/-- An extra condition is the one a stored condition spells: its point, and its value by the codes of section 12.5. -/
def SpelledBy (c : Condition) (r : RawCondition) : Prop :=
  c.point = r.point ∧
  [.opened, .closed, .travel, .bad, .absent, .present, .low, .high][r.value.toNat - 1]? = some c.value

/-- The model that an image gives (chapter 1, sections 12.5 and 12.6): its points, local settings and zones, no more and no
fewer, each with its fields, codes read in their order and unstated figures at their defaults. -/
def StoredImage.Gives (d : StoredImage) (m : YardModel) : Prop :=
  m.unit = d.unit ∧ m.revision = d.revision ∧ m.highNode = d.highNode ∧ m.zones.Perm d.zones ∧
  m.points.length = d.points.length ∧ m.locals.length = d.locals.length ∧
  (∀ r ∈ d.points, ∃ p ∈ m.points, p.id = r.id ∧ p.owner = r.owner ∧ p.nodeA = r.nodeA ∧ p.nodeB = r.nodeB ∧
    [.breaker, .disconnector, .earthing, .voltage, .binary][r.kind - 1]? = some p.kind) ∧
  (∀ r ∈ d.locals, ∃ l ∈ m.locals, l.point = r.point ∧ l.input = r.input ∧ l.coil = r.coil ∧
    (∀ k, d.kindCode r.point = some k → SwitchCode k →
      l.runTime = statedOr ([200, 15000, 10000].getD (k - 1) 0) r.runTime ∧
      l.recovery = statedOr ([300, 1000, 1000].getD (k - 1) 0) r.recovery) ∧
    List.Forall₂ SpelledBy l.closeConditions r.closeConditions ∧ List.Forall₂ SpelledBy l.openConditions r.openConditions) ∧
  m.params =
    { filterTime := d.time 0 20, base := d.time 1 4, heartbeat := d.time 2 2000, margin := d.time 3 50,
      window := d.time 4 60, refresh := d.time 5 500, claimPatience := d.time 6 10, guardPatience := d.time 7 30,
      settle := d.time 8 400, recovery := if d.recovery = 2 then .onClear else .auto }

/-! ### Programs -/

/-- A program in the active place. -/
def State.withActive (s : State) (p : Program) : State := { s with seq := { s.seq with active := some p } }

/-- The active program `p` has ended with `e` (R162, R141): its zones are IDLE, a DROP was offered for each that was
not, the claim job is gone, PROGRAM_END is raised, and nothing else has changed. -/
def EndedWith (s t : State) (p : Program) (e : EndStatus) : Prop :=
  t.seq = { s.seq with active := none } ∧
  (∀ z, t.own z = if z ∈ p.zones then .idle else s.own z) ∧ (∀ z, t.peersOf z = s.peersOf z) ∧ t.claims.job = none ∧
  (p.zones.Nodup → t.link = (s.offers ((p.zones.filter fun z => s.own z ≠ .idle).map .drop)).link) ∧
  t.port = (s.raise [.programEnd p.handle e]).port ∧
  t = { s with seq := t.seq, claims := t.claims, link := t.link, port := t.port }

/-- An end status without evaluator detail (R162). -/
def plainEnd (kind : EndKind) (reason : Option Reason) (step : Nat) : EndStatus := ⟨kind, reason, step, none, 0, 0, 0⟩

/-- REFUSED with the evaluator's full result (R162). -/
def refusedBy (r : RefusalRecord) (step : Nat) : EndStatus :=
  ⟨.refused, some r.reason, step, some r.qualifier, r.condition, r.point, r.node⟩

/-- REFUSED(CLAIM_TIMEOUT), always UNSURE (R140). -/
def timedOut (step : Nat) : EndStatus := ⟨.refused, some .claimTimeout, step, some .unsure, 0, 0, 0⟩

/-- How a pending stop ends a program (R155 step 2). -/
def stoppedBy (c : StopCause) (step : Nat) : EndStatus :=
  match c with
  | .cancel => plainEnd .cancelled none step
  | .localTakeover => plainEnd .aborted (some .localTakeover) step
  | .linkMuted => plainEnd .aborted (some .linkMuted) step
  | .claimClash => plainEnd .aborted (some .claimClash) step

/-- The ends of queued programs, oldest first (R159, R160). -/
def queueEnds (reason : Reason) (q : List Program) : List EventBody :=
  q.map fun p => .programEnd p.handle (plainEnd .aborted (some reason) 0)

/-- The active program's step in hand has just entered GUARD: its deadline is set and the guard is about to be tested
(R150). -/
def State.atGuard (s : State) (p : Program) : State :=
  s.withActive { p with phase := .guard s.now (s.now + BitVec.ofNat 32 (1000 * s.params.guardPatience)) }

/-- A zone of the table with its own state set. -/
def State.ownSet (s : State) (z : Nat) (o : OwnState) : State :=
  { s with claims := { s.claims with zones := s.claims.zones.map fun c => if c.zone = z then { c with own := o } else c } }

/-- A zone of the table with its peer claim list set. -/
def State.listSet (s : State) (z : Nat) (l : List PeerClaim) : State :=
  { s with claims := { s.claims with zones := s.claims.zones.map fun c => if c.zone = z then { c with peers := l } else c } }

/-- A local point's entry in the Bay I/O block changed. -/
def State.pointSet (s : State) (id : Nat) (f : LocalPoint → LocalPoint) : State :=
  { s with bay := { s.bay with points := s.bay.points.map fun q => if q.id = id then f q else q } }

/-- ASKING, begun now (R128). -/
def State.askingNow (s : State) : OwnState :=
  .asking (some (s.now + BitVec.ofNat 32 (s.params.window / 2))) (s.now + BitVec.ofNat 32 s.params.window)

/-- HELD, refreshed now (R133). -/
def State.heldNow (s : State) : OwnState := .held (s.now + BitVec.ofNat 32 s.params.refresh)

/-- The ASK this unit offers for a zone (R122). -/
def State.anAsk (s : State) (z : Nat) : FrameBody := .ask z s.ownUrgency s.ownDefer (2 * s.params.window)

/-- The HOLD this unit offers for a zone (R122). -/
def State.aHold (s : State) (z : Nat) : FrameBody := .hold z s.ownUrgency s.ownDefer (3 * s.params.refresh)

/-- The unit asks for a zone (R128). -/
def State.asks (s : State) (z : Nat) : State := (s.ownSet z s.askingNow).offer (s.anAsk z)

/-- The unit holds a zone, or holds it on (R133). -/
def State.holds (s : State) (z : Nat) : State := (s.ownSet z s.heldNow).offer (s.aHold z)

/-- A window is lost: WAITING, and the program's defer count is raised, at most to 15 (R129 to R131). -/
def State.loses (s : State) (z : Nat) : State :=
  { s.ownSet z .waiting with
    seq := { s.seq with active := s.seq.active.map fun p => { p with defer := min (p.defer + 1) 15 } } }

/-- A give-back of the active program `p` (R136, R161): its zones are dropped, CLAIM_YIELDED is raised, its lowest
zone is asked for again, and it is CLAIMING with its claiming start time kept. -/
def GivenBack (s t : State) (p : Program) (cause : YieldCause) (y : YieldFrom) : Prop :=
  t.seq = { s.seq with active := some { p with phase := .claiming } } ∧
  (∀ low rest, p.zones = low :: rest → (s.zone? low).isSome = true →
    (∀ z, t.own z = if z = low then s.askingNow else if z ∈ rest then .idle else s.own z) ∧
    (p.zones.Nodup → t.link =
      (s.offers ((p.zones.filter fun z => s.own z ≠ .idle).map .drop ++
        [.ask low p.urgency p.defer (2 * s.params.window)])).link)) ∧
  (∀ z, t.peersOf z = s.peersOf z) ∧ t.claims.job = some p.zones ∧
  t.port = (s.raise [.claimYielded y.zone cause y.unit p.handle]).port ∧
  t = { s with seq := t.seq, claims := t.claims, link := t.link, port := t.port }

/-- The claim deadline of a program is reached (R140). -/
def State.outOfPatience (s : State) (p : Program) : Prop :=
  ∃ t, p.claimStart = some t ∧ s.reached (t + BitVec.ofNat 32 (1000 * s.params.claimPatience)) = true

/-- A give-back taken to its end (R161): with the claim deadline already reached, the program ends in the same act and
the next is taken up. -/
def GiveBackEnds (s t : State) (p : Program) (cause : YieldCause) (y : YieldFrom) : Prop :=
  ∃ g, GivenBack s g p cause y ∧
    (¬ s.outOfPatience p → t = g) ∧
    (s.outOfPatience p →
      ∃ w, EndedWith g w { p with phase := .claiming } (timedOut p.stepIndex) ∧ t = w.takeUpNext)

/-! ### Failures, muting and probes -/

/-- The state after steps 1 to 5 of R34 for a failure of a switch: of a drive, with its handle and step, or of a stuck
switch. Step 6, the update handed to the image, follows. -/
def State.afterFailure (s : State) (kind : FaultKind) (id : Nat) (order : Option (Nat × Nat)) : State :=
  { s with
    bay := { s.bay with
      drive := if order.isSome then none else s.bay.drive
      report := if order.isSome then some (.failed kind) else s.bay.report
      points := s.bay.points.map fun q => if q.id = id then { q with suspect := true, stuck := none } else q }
    port := { (s.raise [.fault id kind, .switchSuspect id]).port with
      capture := some (s.port.capture.getD
        { kind := kind, time := s.now, subject := id, handle := (order.map (·.1)).getD 0, step := (order.map (·.2)).getD 0,
          stepState := if order.isSome then some .driving else none, value := (s.localPoint? id).bind (·.value),
          raw := some (s.rawPair id), zones := if order.isSome then s.heldZones else [] }) } }

/-- The link has entered MUTED with a fault (R99, R142, R160, R117): nothing is in hand or listed, the capture has been
offered the fault with what was held and run at that moment, FAULT and LINK_MUTED stand before the ends of the programs,
every own claim is IDLE with no DROP, the schedule is stopped, and the probe timer runs in AUTO alone. -/
def LinkMuted (s t : State) (kind : FaultKind) : Prop :=
  t.link = { s.link with
    txList := [], inHand := none, stage := .idle, mode := .muted, dup := s.link.dup || kind == .duplicateUnit,
    probeTimer :=
      if s.params.recovery = .auto ∧ (s.link.dup || kind == .duplicateUnit) = false then some (s.now + 1000) else none } ∧
  t.claims = { zones := s.claims.zones.map fun c => { c with own := .idle }, job := none } ∧
  t.seq = { s.seq with
    queue := []
    active := s.seq.active.bind fun p =>
      if p.phase = .driving then some { p with pendingStop := some (p.pendingStop.getD .linkMuted) } else none } ∧
  t.port = { (s.raise ([.fault s.unit kind, .linkMuted s.unit kind] ++
      (s.seq.active.toList.filter fun p => p.phase ≠ .driving).map (fun p =>
        .programEnd p.handle (plainEnd .aborted (some .linkMuted) p.stepIndex)) ++
      queueEnds .linkMuted s.seq.queue)).port with
    capture := some (s.port.capture.getD
      { kind := kind, time := s.now, subject := s.unit, handle := (s.seq.active.map (·.handle)).getD 0,
        step := (s.seq.active.map (·.stepIndex)).getD 0, stepState := s.seq.active.map (·.phase.name), value := none,
        raw := none, zones := s.heldZones }) } ∧
  t.pub = { s.pub with stage := .stopped } ∧
  t = { s with link := t.link, claims := t.claims, seq := t.seq, port := t.port, pub := t.pub }

/-- A probe has been formed and taken in hand (R101, R117). -/
def State.withProbe (s : State) : State :=
  { s with
    pub := { s.pub with repeatNo := 0, interval := s.params.base, stage := .offered (s.pub.stateNo.getD 0) 0 }
    link := { s.link with
      probeTimer := none
      stage := .deferring s.spellNow
      inHand := some
        ⟨⟨s.unit, s.ctl.model.revision,
          .bulletin (s.pub.stateNo.getD 0) 0 (2 * s.params.base + s.params.margin) s.pointList⟩, 0, true, s.micros⟩ } }

/-! ### Classes, chains and conditions -/

/-- Two nodes are joined by one of the paths. -/
def Joined (edges : List (Nat × Nat)) (a b : Nat) : Prop := (a, b) ∈ edges ∨ (b, a) ∈ edges

/-- Two nodes are joined by one breaker or disconnector of an admitted class, one switch left out if named (R64). -/
def State.joinedBy (s : State) (r : Reading) (pr : Option Prospect) (ok : SwitchClass → Prop) (out : Option Nat)
    (a b : Nat) : Prop :=
  ∃ p ∈ s.ctl.model.points, (p.kind = .breaker ∨ p.kind = .disconnector) ∧ ok (s.switchClass r pr p.id) ∧
    out ≠ some p.id ∧ (p.nodeA = a ∧ p.nodeB = b ∨ p.nodeA = b ∧ p.nodeB = a)

/-- A chain of such switches, of none at the least, leads from one node to another (R64). -/
def State.Chain (s : State) (r : Reading) (pr : Option Prospect) (ok : SwitchClass → Prop) (out : Option Nat) :
    Nat → Nat → Prop := Relation.ReflTransGen (s.joinedBy r pr ok out)

/-- A voltage point of an admitted class stands on the node (R4, R61). -/
def State.sourceAt (s : State) (r : Reading) (ok : VoltageClass → Prop) (n : Nat) : Prop :=
  ∃ p ∈ s.ctl.model.points, p.kind = .voltage ∧ p.nodeA = n ∧ ok (s.voltageClass r p.id)

/-- The node carries an earthing switch of an admitted class (R66). -/
def State.earthAt (s : State) (r : Reading) (pr : Option Prospect) (ok : SwitchClass → Prop) (n : Nat) : Prop :=
  ∃ p ∈ s.ctl.model.points, p.kind = .earthing ∧ p.nodeA = n ∧ ok (s.switchClass r pr p.id)

/-- An extra condition is met (R80). -/
def State.meets (s : State) (c : Condition) : Prop :=
  ∃ e, s.entry? c.point = some e ∧ s.quality e = .good ∧ e.value = some c.value ∧
    (e.kind.isSwitch = true → e.suspect = false)

/-- An extra condition is judged on a sure value: GOOD and, for a switch, not suspect (R80). -/
def State.judgesSurely (s : State) (c : Condition) : Prop :=
  ∃ e, s.entry? c.point = some e ∧ s.quality e = .good ∧ (e.kind.isSwitch = true → e.suspect = false)

/-! ### Invariants of the tables, lists and queues -/

/-- The store is in canonical form, and whatever is on its way into it is a block (R10). -/
def State.storeInv (s : State) : Prop :=
  storeWf s.ctl.store = true ∧
  (∀ w, s.ctl.blockWrite = some w → validBlock w.offset = true ∧ w.data.length = 64) ∧
  (∀ tag offset data, s.port.waiting = some ⟨tag, .writeConfig offset data⟩ → data.length = 64)

/-- The event queue holds at most 32 records (R170). -/
def State.eventInv (s : State) : Prop := s.port.events.length ≤ 32

/-- The peer table holds the 48 units in order (R43). -/
def State.peerTableInv (s : State) : Prop := s.image.peers.map (·.unit) = List.range' 1 48

/-- The claim controller's zones are those of the model, ascending, each number in 1..24 (R5, R124, R143). -/
def State.zoneInv (s : State) : Prop :=
  s.claims.zones.map (·.zone) = s.ctl.model.zones.map (·.number) ∧
  (s.claims.zones.map (·.zone)).Pairwise (· < ·) ∧ ∀ c ∈ s.claims.zones, 1 ≤ c.zone ∧ c.zone ≤ 24

/-- Every peer claim list holds at most 8 entries, at most one a unit (R124, R131). -/
def State.claimListInv (s : State) : Prop :=
  ∀ c ∈ s.claims.zones, c.peers.length ≤ 8 ∧ (c.peers.map (·.unit)).Nodup

/-- The transmit list holds at most one frame a slot (R92). -/
def State.slotInv (s : State) : Prop := (s.link.txList.map (·.body.slot)).Nodup

/-- The tables, lists and queues have the form and the bounds that the manual gives them. -/
def State.tablesInv (s : State) : Prop :=
  s.storeInv ∧ s.eventInv ∧ s.peerTableInv ∧ s.zoneInv ∧ s.claimListInv ∧ s.slotInv

/-! ### Invariants of the unit's work -/

/-- Start-up control's fields agree with the mode: an orderly stop only in RUN, a block being stored only in HALTED, a
halt cause exactly in HALTED (R10, R13, R17, R169); a HALT's stop with no program (R16). -/
def State.modeInv (s : State) : Prop :=
  (s.ctl.stopping.isSome = true → s.ctl.mode = .run) ∧ (s.ctl.blockWrite.isSome = true → s.ctl.mode = .halted) ∧
  (s.ctl.haltCause.isSome = true ↔ s.ctl.mode = .halted) ∧
  (s.ctl.stopping = some .halt → s.seq.active = none ∧ s.seq.queue = [])

/-- A request is in hand exactly while a block is being stored or an orderly stop is under way, and one waits only
behind it (R166). -/
def State.portInv (s : State) : Prop :=
  (s.port.inHand.isSome = true ↔ s.ctl.blockWrite.isSome = true ∨ s.ctl.stopping.isSome = true) ∧
  (s.port.waiting.isSome = true → s.port.inHand.isSome = true)

/-- Programs are held in RUN alone; the queue holds at most 4, and none with no program active; every record has a
handle of its own in 1..255, 1 to 8 steps and a step index within them (R145 to R148, R165). -/
def State.programInv (s : State) : Prop :=
  (s.seq.active.isSome = true ∨ s.seq.queue ≠ [] → s.ctl.mode = .run) ∧
  s.seq.queue.length ≤ 4 ∧ (s.seq.active = none → s.seq.queue = []) ∧
  s.handlesInUse.Nodup ∧ (∀ h ∈ s.handlesInUse, 1 ≤ h ∧ h ≤ 255) ∧ 1 ≤ s.seq.nextHandle ∧ s.seq.nextHandle ≤ 255 ∧
  (∀ p ∈ s.seq.queue, p.phase = .queued ∧ p.stepIndex = 0 ∧ 1 ≤ p.steps.length ∧ p.steps.length ≤ 8) ∧
  (∀ p, s.seq.active = some p → p.phase ≠ .queued ∧ p.phase ≠ .finished ∧ 1 ≤ p.stepIndex ∧
    p.stepIndex ≤ p.steps.length ∧ p.steps.length ≤ 8)

/-- A drive record, or a drive's end that the sequencer has not yet taken, is there only for the active program's step in
DRIVING, on that step's switch in its direction; such a step has exactly one of the two until an orderly stop cuts it
(R28, R39, R154). -/
def State.driveInv (s : State) : Prop :=
  (∀ d, s.bay.drive = some d →
    s.ctl.stopping = none ∧ s.bay.report = none ∧
    ∃ p, s.seq.active = some p ∧ p.phase = .driving ∧ p.handle = d.handle ∧ p.stepIndex = d.step ∧
      p.steps[p.stepIndex - 1]? = some ⟨d.switch, d.direction⟩) ∧
  (s.bay.report.isSome = true → s.ctl.stopping = none ∧ s.driving = true) ∧
  (s.driving = true → s.ctl.stopping = none → s.bay.drive.isSome = true ∨ s.bay.report.isSome = true)

/-- The claim controller works for the active program alone, its job is that program's list, a zone is claimed only when
every zone before it is HELD, a program in GUARD holds all its zones, and so does one in DRIVING with no stop pending
(R127, R152). -/
def State.claimInv (s : State) : Prop :=
  (∀ z, s.own z ≠ .idle → ∃ p, s.seq.active = some p ∧ z ∈ p.zones) ∧
  (∀ z, s.own z ≠ .idle → (s.own z).isHeld = false → ∃ p, s.seq.active = some p ∧ p.phase = .claiming) ∧
  (∀ l, s.claims.job = some l → ∃ p, s.seq.active = some p ∧ l = p.zones) ∧
  (∀ p, s.seq.active = some p →
    (p.phase = .claiming → s.claims.job = some p.zones) ∧
    (∀ z ∈ p.zones, s.own z ≠ .idle → ∀ y ∈ p.zones.takeWhile (· != z), (s.own y).isHeld = true) ∧
    (p.phase.name = .guard → ∀ z ∈ p.zones, (s.own z).isHeld = true) ∧
    (p.phase = .driving → p.pendingStop = none → ∀ z ∈ p.zones, (s.own z).isHeld = true))

/-- The transmitter is IDLE exactly with no frame in hand, and then no frame waits; a frame is in hand in RUN alone; with
the link MUTED none waits but those of an orderly stop (R92, R93, R99, R106). -/
def State.linkInv (s : State) : Prop :=
  (s.link.inHand = none ↔ s.link.stage = .idle) ∧ (s.link.inHand = none → s.link.txList = []) ∧
  (s.link.inHand.isSome = true → s.ctl.mode = .run) ∧
  (s.link.mode = .muted → s.ctl.stopping = none → s.link.txList = [])

/-- The unit's work hangs together while it has supply. -/
def State.workInv (s : State) : Prop :=
  s.supplied = true → s.modeInv ∧ s.portInv ∧ s.programInv ∧ s.driveInv ∧ s.claimInv ∧ s.linkInv

end Sys2Proof.Machine
end

