-- ==== Sys2Proof/Certificates/Slice0/Obligations.lean ====
section
/-! DEFINITION. The statements about the unit. Each docstring says which rules of the manual a statement
comes from, and where it rests on a choice of the model it names the log entry. -/
open Sys2Proof Sys2Proof.Machine

/-! ### Steps -/

/-- The command at the front of the queue is the one a step takes, on the state with the queue's rest. -/
def Obligations.StepTakesTheFrontCommand : Prop :=
  ∀ (s : State) (c : Instr) (rest : List Instr), s.pending = c :: rest → step s = exec c { s with pending := rest }

/-- MODEL'S CHOICE (logs 1, 4 and 7). With no command waiting a step is one microsecond: the clock runs on, and an
attempt whose last byte has gone by then waits for its echo (R97's table). Without supply nothing changes. -/
def Obligations.IdleStepIsAMicrosecond : Prop :=
  ∀ s : State, s.pending = [] →
    (s.supplied = false → step s = .next s) ∧
    (s.supplied = true → ∃ t, step s = .next t ∧
      t = { s with micros := s.micros + 1, link := { s.link with stage := t.link.stage } } ∧
      (∀ last, s.link.stage = .sending last →
        t.link.stage = if last ≤ s.micros + 1 then .echoWait last else .sending last) ∧
      ((∀ last, s.link.stage ≠ .sending last) → t.link.stage = s.link.stage))

/-- Every command has a next state, whatever the state (INVENTORY.md, Faults). It leaves the waiting commands alone. That
no command but POWER_ON, which sets the clock back to 0 (R119), changes the count of time is the MODEL'S CHOICE that
commands take no time (logs 1 and 2, DESIGN CHOICE). Only the storing of a block, or the loss of supply while one is being
stored, changes the store (R10: starts do not change the store). -/
def Obligations.EveryCommandCompletes : Prop :=
  ∀ (c : Instr) (s : State), ∃ t, exec c s = .next t ∧ t.pending = s.pending ∧
    (c ≠ .powerOn → t.micros = s.micros) ∧
    (c ≠ .powerOn → c ≠ .supplyFailure → c ≠ .configBlockStored → t.ctl.store = s.ctl.store)

/-- Without supply no command but POWER_ON, a change of a raw line and a turn of the medium has any effect (section 1.5;
log 4, DEDUCED). The unit works with supply in QUIET and RUN (R14, R15); that it receives no frame and its other blocks
take no event during an orderly stop is the model's reading (log 12). -/
def Obligations.WithoutSupplyNothingActs : Prop :=
  (∀ (c : Instr) (s : State), s.supplied = false → c ≠ .powerOn → c ≠ .mediumBusy → c ≠ .mediumIdle →
    (∀ line made, c ≠ .rawInputChange line made) → exec c s = .next s) ∧
  ∀ s : State,
    (s.working = true ↔ s.supplied = true ∧ (s.ctl.mode = .quiet ∨ s.ctl.mode = .run)) ∧
    (s.receiving = true ↔ s.working = true ∧ s.ctl.stopping = none) ∧
    (s.running = true ↔ s.supplied = true ∧ s.ctl.mode = .run ∧ s.ctl.stopping = none)

/-! ### Supply, loading and the quiet time (section 1.5) -/

/-- POWER_ON is a power-on start: every block takes its values after a start (R13, R38, R56, R107, R108, R143, R165,
R177), the clock is at 0, no request is in hand or waiting. SUPPLY_FAILURE drops every coil, the frame in hand and the
requests with the supply and changes nothing else (R15, R39, R107). A block being stored is afterwards in the store
whole or not at all (R10). A POWER_ON of a unit that has supply is a loss of it and a start (log 5). The empty tables of
points and zones before loading are the model's (log 10). -/
def Obligations.SupplyComesAndGoes : Prop :=
  ∀ s : State, s.storeInv →
    (∃ t, exec .powerOn s = .next t ∧ StartValues s t .powerOn 0 ∧ t.micros = 0 ∧ t.port.inHand = none ∧
      t.port.waiting = none ∧ t.port.replies = s.port.replies ∧ OldOrNew s t) ∧
    (s.supplied = true → ∃ t, exec .supplyFailure s = .next t ∧ OldOrNew s t ∧ t.coils = [] ∧
      (s.ctl.blockWrite = none → t.freeCount = s.freeCount) ∧
      t = { s with
        supplied := false
        ctl := { s.ctl with store := t.ctl.store, blockWrite := none }
        bay := { s.bay with drive := none, report := none }
        link := { s.link with inHand := none, stage := .idle }
        port := { s.port with inHand := none, waiting := none }
        freeCount := t.freeCount })

/-- Loading ends in QUIET with the model installed, its tables built, the quiet time set and every input in use pending,
or in HALTED with the cause (R13, R14, R24, R40, R56, R143). The unit number and the parameters that the blocks use are
the model's from then on (R13). -/
def Obligations.LoadingEndsInQuietOrHalted : Prop :=
  ∀ s : State, s.supplied = true → s.ctl.mode = .loading →
    (∀ c, loadStore s.ctl.store = .failed c →
      exec .loadingEnd s =
        .next { s with ctl := { s.ctl with mode := .halted, haltCause := some c, stopping := none } }) ∧
    (∀ m, loadStore s.ctl.store = .loaded m → ∃ t, exec .loadingEnd s = .next t ∧ t.unit = m.unit ∧ t.params = m.params ∧
      t = { s with
        ctl := { s.ctl with
          mode := .quiet
          model := m
          quietEnd := s.now + BitVec.ofNat 32 (2 * m.params.heartbeat + m.params.margin + 100) }
        bay := { s.bay with
          points := m.locals.map fun d => ⟨d.point, none, some ⟨t.rawReading d.point, s.now⟩, false, none, none⟩
          selector := ⟨none, some (s.bay.lines.selectorReading, s.now)⟩ }
        image := { s.image with
          entries := m.points.map fun p => ⟨p.id, p.kind, p.owner, none, false, .never⟩
          moves := m.zones.map fun z => ⟨z.number, none⟩ }
        claims := { zones := m.zones.map fun z => ⟨z.number, .idle, []⟩, job := none }
        pub := { s.pub with interval := m.params.base } })

/-- R11: loading fails with CONFIG_CRC exactly when the stated length is below 30, or runs past the end of the store, or
the CRC-16 over the image but for its last two bytes is not those two bytes, most significant first; the CRC is the one
whose value over the digits 1 to 9 is 0x29B1 (R179). -/
def Obligations.BadImagesFailTheCrc : Prop :=
  crc16 [0x31, 0x32, 0x33, 0x34, 0x35, 0x36, 0x37, 0x38, 0x39] = 0x29B1 ∧
  ∀ store : List Host.Cell,
    let n := 256 * (storeRead store 0).toNat + (storeRead store 1).toNat
    let sum := (crc16 ((List.range (n - 2)).map (storeRead store))).toNat
    loadStore store = .failed .configCrc ↔
      n < 30 ∨ 16384 < n ∨ sum ≠ 256 * (storeRead store (n - 2)).toNat + (storeRead store (n - 1)).toNat

/-- What loading makes of an image whose CRC is good (R12, R182, section 12.6). The first of the eleven checks that fails
ends it with that check's number; an image that passes them all is loaded, and the model is the one its bytes spell: unit,
revision, highest node, points, local settings with the defaults of R8, conditions, zones and parameters with the defaults of
R9. Sections that, read by their counts, are no image fail check 3, after checks 1 and 2. A model that loading installs obeys
the rules of the yard, by the checks of R12: the unit, the revision, the nodes and the counts (R1, R2), the switches' and
voltage points' nodes (R3, R4), the zones (R5), extra conditions, at most four a direction, each naming a point of the table
and a value its kind shows as settled (R7), the local settings within their ranges, no input and no coil used by two points,
and neither coil nor conditions on a voltage or binary point (R8), and the parameters within their ranges, with 2 W < F and H
at least 8 B (R9). What check 3 counts as local points, the kind check 4 takes for an id that occurs twice, the records that
check 4 looks at, and the unused nodes that check 7 does not look at are the model's reading (logs 14, 15, 32 and 33). -/
def Obligations.LoadedModelObeysTheLimits : Prop :=
  (∀ (store : List Host.Cell) (m : YardModel), loadStore store = .loaded m →
    1 ≤ m.unit ∧ m.unit ≤ 48 ∧ m.revision ≠ 0 ∧ 1 ≤ m.highNode ∧ m.highNode ≤ 127 ∧
    m.points.length ≤ 256 ∧ (m.points.filter fun p => p.owner = m.unit).length ≤ 24 ∧
    (m.points.filter fun p => p.kind.isSwitch).length ≤ 192 ∧ (m.points.filter fun p => p.kind = .voltage).length ≤ 32 ∧
    (m.points.filter fun p => p.kind.isSwitch = true ∧ p.owner = m.unit).length ≤ 12 ∧
    (m.points.filter fun p => p.kind = .voltage ∧ p.owner = m.unit).length ≤ 4 ∧
    (m.points.filter fun p => p.kind = .binary ∧ p.owner = m.unit).length ≤ 8 ∧
    (m.points.map (·.id)).Pairwise (· < ·) ∧
    (∀ p ∈ m.points, 1 ≤ p.id ∧ p.id ≤ 65535 ∧ 1 ≤ p.owner ∧ p.owner ≤ 48) ∧
    (∀ p ∈ m.points, (p.kind = .breaker ∨ p.kind = .disconnector) →
      1 ≤ p.nodeA ∧ p.nodeA ≤ m.highNode ∧ 1 ≤ p.nodeB ∧ p.nodeB ≤ m.highNode ∧ p.nodeA ≠ p.nodeB) ∧
    (∀ p ∈ m.points, p.kind = .earthing → 1 ≤ p.nodeA ∧ p.nodeA ≤ m.highNode ∧ p.nodeB = 0) ∧
    (∀ p ∈ m.points, p.kind = .voltage → 1 ≤ p.nodeA ∧ p.nodeA ≤ m.highNode) ∧
    ((m.points.filter fun p => p.kind = .voltage).map (·.nodeA)).Nodup ∧
    m.locals.map (·.point) = (m.points.filter fun p => p.owner = m.unit).map (·.id) ∧
    (∀ d ∈ m.locals, d.closeConditions.length ≤ 4 ∧ d.openConditions.length ≤ 4) ∧
    m.zones.length ≤ 24 ∧ (m.zones.map (·.number)).Pairwise (· < ·) ∧
    (∀ z ∈ m.zones, 1 ≤ z.number ∧ z.number ≤ 24 ∧ 1 ≤ z.nodes.length ∧ z.nodes.length ≤ 16 ∧ z.nodes.Nodup ∧
      ∀ n ∈ z.nodes, 1 ≤ n ∧ n ≤ m.highNode) ∧
    2 * m.params.window < m.params.refresh ∧ 8 * m.params.base ≤ m.params.heartbeat ∧
    (∀ d ∈ m.locals, ∀ c ∈ d.closeConditions ++ d.openConditions, ∃ p ∈ m.points, p.id = c.point ∧
      (p.kind.isSwitch = true ∧ (c.value = .opened ∨ c.value = .closed) ∨
        p.kind = .voltage ∧ (c.value = .absent ∨ c.value = .present) ∨
        p.kind = .binary ∧ (c.value = .low ∨ c.value = .high))) ∧
    (∀ d ∈ m.locals, ∀ p ∈ m.points, p.id = d.point →
      (p.kind.isSwitch = true → 1 ≤ d.input ∧ d.input ≤ 24 ∧ 1 ≤ d.coil ∧ d.coil ≤ 12 ∧
        50 ≤ d.runTime ∧ d.runTime ≤ 30000 ∧ d.recovery ≤ 10000) ∧
      (p.kind = .voltage → 1 ≤ d.input ∧ d.input ≤ 4) ∧ (p.kind = .binary → 1 ≤ d.input ∧ d.input ≤ 8) ∧
      (p.kind.isSwitch = false → d.coil = 0 ∧ d.closeConditions = [] ∧ d.openConditions = []) ∧
      ∀ e ∈ m.locals, ∀ q ∈ m.points, q.id = e.point → e.point ≠ d.point →
        (p.kind.isSwitch = true → q.kind.isSwitch = true → d.input ≠ e.input ∧ d.coil ≠ e.coil) ∧
        (p.kind = .voltage → q.kind = .voltage → d.input ≠ e.input) ∧
        (p.kind = .binary → q.kind = .binary → d.input ≠ e.input)) ∧
    5 ≤ m.params.filterTime ∧ m.params.filterTime ≤ 100 ∧ 2 ≤ m.params.base ∧ m.params.base ≤ 50 ∧
    500 ≤ m.params.heartbeat ∧ m.params.heartbeat ≤ 10000 ∧ 10 ≤ m.params.margin ∧ m.params.margin ≤ 1000 ∧
    20 ≤ m.params.window ∧ m.params.window ≤ 500 ∧ 200 ≤ m.params.refresh ∧ m.params.refresh ≤ 2000 ∧
    1 ≤ m.params.claimPatience ∧ m.params.claimPatience ≤ 60 ∧ 5 ≤ m.params.guardPatience ∧
    m.params.guardPatience ≤ 120 ∧ m.params.settle ≤ 5000) ∧
  (∀ (store : List Host.Cell) (d : StoredImage), StoredIn d store →
    (∀ k, 1 ≤ k → k ≤ 11 → (∀ j, 1 ≤ j → j < k → d.Passes j) → ¬ d.Passes k →
      loadStore store = .failed (.configInvalid k)) ∧
    ((∀ k, 1 ≤ k → k ≤ 11 → d.Passes k) → ∃ m, loadStore store = .loaded m ∧ d.Gives m)) ∧
  ∀ store : List Host.Cell, loadStore store ≠ .failed .configCrc → (∀ d, ¬ StoredIn d store) →
    let unit := (storeRead store 2).toNat
    loadStore store = .failed (.configInvalid
      (if unit = 0 ∨ 48 < unit then 1 else if storeRead store 3 = 0 ∧ storeRead store 4 = 0 then 2 else 3))

/-- The quiet time ends in RUN (R14, R15, R109, R111, R115, R117): with the link ACTIVE the first bulletin, of state
number 0, repeat 0 and hold 2 B + M, is awaited and in hand; with the link MUTED state 0 is counted and nothing offered.
Before the quiet time has passed the command has no effect (log 2). -/
def Obligations.QuietTimeEndsInRun : Prop :=
  ∀ s : State, s.supplied = true → s.ctl.mode = .quiet → s.modeInv → s.linkInv →
    (s.reached s.ctl.quietEnd = false → exec .quietTimeExpiry s = .next s) ∧
    (s.reached s.ctl.quietEnd = true →
      (s.link.mode = .muted → exec .quietTimeExpiry s =
        .next { s with
          ctl := { s.ctl with mode := .run }
          pub := { s.pub with stateNo := some 0, repeatNo := 0, interval := s.params.base } }) ∧
      (s.link.mode = .active → exec .quietTimeExpiry s =
          .next { s with
            ctl := { s.ctl with mode := .run }
            pub := { stateNo := some 0, repeatNo := 0, interval := s.params.base, stage := .offered 0 0 }
            link := { s.link with
              stage := .deferring s.spellNow
              inHand := some ⟨⟨s.unit, s.ctl.model.revision,
                .bulletin 0 0 (2 * s.params.base + s.params.margin) s.pointList⟩, 0, true, s.micros⟩ } }))

/-! ### Halts, restarts and orderly stops (R16, R17, R106) -/

/-- HALT (R16, R167) and RESTART (R17), by the mode in which they are taken. A halt leaves the sequencer as a start does
(R165). -/
def Obligations.HaltAndRestartByMode : Prop :=
  ∀ (s : State) (tag : Byte), s.free →
    ((s.ctl.mode = .loading ∨ s.ctl.mode = .halted) →
      exec (.halt tag) s = .next (s.replied 0x03 tag .notRunning .none)) ∧
    ((s.ctl.mode = .quiet ∨ s.ctl.mode = .run) → (s.seq.active.isSome = true ∨ s.seq.queue ≠ []) →
      exec (.halt tag) s = .next (s.replied 0x03 tag .busy .none)) ∧
    (s.ctl.mode = .quiet → s.seq.active = none → s.seq.queue = [] →
      exec (.halt tag) s =
        .next { s.replied 0x03 tag .ok .none with
          ctl := { s.ctl with mode := .halted, haltCause := some .haltRequest, stopping := none }
          seq := ⟨[], none, 1⟩ }) ∧
    (s.ctl.mode = .run → s.seq.active = none → s.seq.queue = [] →
      ∃ t, exec (.halt tag) s = .next t ∧ StopBegun (s.holding tag .halt) t .halt) ∧
    (s.ctl.mode = .run → ∃ t, exec (.restart tag) s = .next t ∧
      StopBegun ({ s.replied 0x02 tag .ok .none with
        port := { (s.replied 0x02 tag .ok .none).port with inHand := some ⟨tag, .restart⟩ } }) t .restart) ∧
    (s.ctl.mode ≠ .run → ∃ t, exec (.restart tag) s = .next t ∧ StartValues s t .restart s.now ∧
      t.micros = s.micros ∧ t.ctl.store = s.ctl.store ∧ t.port.inHand = none ∧ t.port.waiting = s.port.waiting ∧
      t.port.replies = s.port.replies ++ [⟨0x02, tag, .ok, .none⟩])

/-- The frames of an orderly stop have one attempt each (R106): whatever an attempt's outcome, or when 5 ms have passed
without the spell, the stop goes on to its next frame, and after the last to its end (R16, R17). An outcome counts once
the attempt can have reached it: COLLIDED in an attempt, SENT after the last byte, LOST 200 µs after it (R96). That both
are taken later too, and the skip whatever the medium has given by then, is the model's choice (log 35). That an outcome
before that has no effect is log 2, and that HALTED is entered at the end log 31. -/
def Obligations.StopFramesGoOneByOne : Prop :=
  ∀ s : State, s.supplied = true → s.ctl.mode = .run → s.ctl.stopping.isSome = true → s.port.waiting = none →
    (∀ outcome last,
      (outcome = .collided ∧ s.link.stage = .sending last) ∨
        (outcome ≠ .lost ∧ s.link.stage = .echoWait last) ∨
        (outcome = .lost ∧ s.link.stage = .echoWait last ∧ last + 200 ≤ s.micros) →
      ∃ t, exec (.stopFrameOutcome outcome) s = .next t ∧ StopGoesOn s t) ∧
    (∀ h since, s.link.inHand = some h → s.link.stage = .deferring since → h.takenAt + 5000 ≤ s.micros →
      ∃ t, exec .stopFrameSkip s = .next t ∧ StopGoesOn s t)

/-- The waiting request is taken once the request in hand has been released (R166): what the stored block or the end of
an orderly stop gives with no request waiting is what the waiting request is then taken on. -/
def Obligations.WaitingRequestIsTakenNext : Prop :=
  ∀ (s u : State) (c : Instr) (w : Tagged),
    (c = .configBlockStored ∨ c = .stopFrameSkip ∨ ∃ outcome, c = .stopFrameOutcome outcome) →
    s.supplied = true → s.port.inHand.isSome = true → s.port.waiting = some w → Sendable w.request →
    exec c { s with port := { s.port with waiting := none } } = .next u → u.port.inHand = none →
    exec c s = exec (commandOf w.tag w.request) u

/-! ### The configuration store (section 1.4) -/

/-- R10. In HALTED a WRITE_CONFIG with an offset that is a multiple of 64 in 0..16 320 starts the storing of its block; it
is answered once the block is stored, and then the block's bytes and no others have changed. Any other offset is refused
BAD_REQUEST, any other mode NOT_HALTED, the store as it was. If the supply fails during the write the block is all old or
all new. Starts leave the store alone. -/
def Obligations.ConfigBlocksAreStoredWhole : Prop :=
  (∀ (s : State) (tag : Byte) (offset : Nat) (data : List Byte), s.free → data.length = 64 →
    (s.ctl.mode ≠ .halted → exec (.writeConfig tag offset data) s = .next (s.replied 0x04 tag .notHalted .none)) ∧
    (s.ctl.mode = .halted → offset % 64 ≠ 0 ∨ 16320 < offset →
      exec (.writeConfig tag offset data) s = .next (s.replied 0x04 tag .badRequest .none)) ∧
    (s.ctl.mode = .halted → offset % 64 = 0 → offset ≤ 16320 →
      exec (.writeConfig tag offset data) s =
        .next { s.holding tag (.writeConfig offset data) with
          ctl := { s.ctl with blockWrite := some ⟨offset, data⟩ } })) ∧
  (∀ (s : State) (w : BlockWrite) (tg : Tagged), s.storeInv → s.supplied = true → s.ctl.blockWrite = some w →
    s.port.inHand = some tg → s.port.waiting = none →
    ∃ t, exec .configBlockStored s = .next t ∧ BlockIn s t w ∧
      t = { s with
        ctl := { s.ctl with store := t.ctl.store, blockWrite := none }
        port := { s.port with
          inHand := none, replies := s.port.replies ++ [⟨requestTypeCode tg.request, tg.tag, .ok, .none⟩] } }) ∧
  (∀ s t : State, s.storeInv → s.supplied = true → exec .supplyFailure s = .next t → OldOrNew s t) ∧
  (∀ (s t : State) (tag : Byte), exec (.restart tag) s = .next t → t.ctl.store = s.ctl.store) ∧
  (∀ s t : State, s.ctl.blockWrite = none → exec .powerOn s = .next t → t.ctl.store = s.ctl.store)

/-! ### The bay port (chapter 10) -/

/-- The refusals of R167's table: the reply is the one the table gives for the mode, and nothing else changes. A CANCEL
taken in QUIET finds no program. -/
def Obligations.ModesRefuseRequests : Prop :=
  ∀ (s : State) (tag : Byte) (r : Request), s.free → Sendable r →
    ((∃ offset data, r = .writeConfig offset data) → s.ctl.mode ≠ .halted →
      exec (commandOf tag r) s = .next (s.replied (requestTypeCode r) tag .notHalted .none)) ∧
    (r ≠ .readStatus → r ≠ .restart → (∀ offset data, r ≠ .writeConfig offset data) → (∀ type, r ≠ .unknown type) →
      (s.ctl.mode = .loading ∨ s.ctl.mode = .halted) →
      exec (commandOf tag r) s = .next (s.replied (requestTypeCode r) tag .notRunning .none)) ∧
    (((∃ u p t, r = .operate u p t) ∨ (∃ u steps, r = .program u steps) ∨ r = .clearFaultLink) → s.ctl.mode = .quiet →
      exec (commandOf tag r) s = .next (s.replied (requestTypeCode r) tag .notRunning .none)) ∧
    (∀ handle, r = .cancel handle → s.ctl.mode = .quiet → s.seq.active = none → s.seq.queue = [] →
      exec (commandOf tag r) s = .next (s.replied 0x12 tag .unknownHandle .none))

/-- A request completed while one is in hand waits, and a further one is answered OVERRUN at once and has no other
effect (R166). What is not a request gets no reply and has no effect: a record shorter than 6 bytes, of another length
than its first two bytes say, or with a bad CRC; a record of a known type whose length is not the one that R181's table
gives for the type, a PROGRAM's by its own step count; and bytes before a gap that do not complete a record (R181,
R166). A record of an unknown type is answered BAD_REQUEST in every mode (R166). The type codes are those of R181's
table, and the record of a request, laid out as R181 says, acts as the request itself; a record of an unknown type acts
as UNKNOWN_REQUEST_TYPE. A run of completed records, with bytes after them that complete none, is its records one after
the other, each acting on what the one before it left (R181, R166). That DISCARD and GAP carry bytes which the unit
judges is the model's choice (log 22), as is that a record whose L is 0 or 1 is complete with its two bytes (log 37). -/
def Obligations.RequestsWaitOrAreTurnedAway : Prop :=
  (∀ (s : State) (tag : Byte) (r : Request) (inHand : Tagged), s.supplied = true → s.port.inHand = some inHand →
    Sendable r →
    (s.port.waiting = none →
      exec (commandOf tag r) s = .next { s with port := { s.port with waiting := some ⟨tag, r⟩ } }) ∧
    (∀ w, s.port.waiting = some w →
      exec (commandOf tag r) s =
        .next { s with port := { s.port with
          replies := s.port.replies ++ [⟨requestTypeCode r, tag, .overrun, .none⟩] } } ∧
      ∀ type, exec (.overrun tag type) s =
        .next { s with port := { s.port with replies := s.port.replies ++ [⟨type, tag, .overrun, .none⟩] } })) ∧
  (∀ (s : State) (record : List Byte),
    record.length < 6 ∨ dec16 (record.getD 0 0) (record.getD 1 0) ≠ record.length ∨ crcGood record = false →
    exec (.requestRecordDiscard record) s = .next s) ∧
  (∀ (s : State) (record : List Byte),
    let type := (record.getD 2 0).toNat
    let l := record.length
    type ∈ [0x01, 0x02, 0x03, 0x22, 0x23, 0x24, 0x25, 0x31] ∧ l ≠ 6 ∨ type ∈ [0x12, 0x21] ∧ l ≠ 7 ∨
      type ∈ [0x20, 0x30] ∧ l ≠ 8 ∨ type = 0x13 ∧ l ≠ 9 ∨ type = 0x10 ∧ l ≠ 10 ∨ type = 0x04 ∧ l ≠ 72 ∨
      type = 0x11 ∧ l ≠ 8 + 3 * (record.getD 5 0).toNat →
    exec (.requestRecordDiscard record) s = .next s) ∧
  (∀ (s : State) (bytes : List Byte), bytes.length < 2 ∨ bytes.length < dec16 (bytes.getD 0 0) (bytes.getD 1 0) →
    exec (.recordGapTimeout bytes) s = .next s) ∧
  (∀ (s : State) (tag : Byte) (type : Nat), s.free → knownRequestType type = false →
    exec (.unknownRequestType tag type) s = .next (s.replied type tag .badRequest .none)) ∧
  (∀ r : Request, requestTypeCode r = match r with
    | .readStatus => 0x01 | .restart => 0x02 | .halt => 0x03 | .writeConfig _ _ => 0x04 | .operate _ _ _ => 0x10
    | .program _ _ => 0x11 | .cancel _ => 0x12 | .check _ _ => 0x13 | .readPoint _ => 0x20 | .readNode _ => 0x21
    | .readClaims => 0x22 | .readEvent => 0x23 | .readCapture => 0x24 | .unlockCapture => 0x25
    | .clearFaultSwitch _ => 0x30 | .clearFaultLink => 0x31 | .unknown type => type) ∧
  (∀ (s : State) (tag : Byte) (r : Request), (commandOf tag r).wellFormed = true →
    exec (.requestRecordDiscard (recordBytes (requestTypeCode r) tag (requestFields r))) s = exec (commandOf tag r) s) ∧
  (∀ (s : State) (tag : Byte) (type : Nat) (fields : List Byte), type < 256 → knownRequestType type = false →
    fields.length ≤ 65529 →
    exec (.requestRecordDiscard (recordBytes type tag fields)) s = exec (.unknownRequestType tag type) s) ∧
  (∀ (s : State) (records : List (List Byte)) (rest : List Byte),
    (∀ r ∈ records, r.length = max 2 (dec16 (r.getD 0 0) (r.getD 1 0))) →
    (rest.length < 2 ∨ rest.length < dec16 (rest.getD 0 0) (rest.getD 1 0)) →
    exec (.recordGapTimeout (records.flatten ++ rest)) s = inTurn (records.map .requestRecordDiscard) s)

/-- READ_STATUS is answered in every mode with the items of R169; the events-lost flag is reported as it stood and then
clear, and nothing else changes. The active program's state is reported by its name (R147). -/
def Obligations.ReadStatusReports : Prop :=
  ∀ (s : State) (tag : Byte), s.free → ∃ t, exec (.readStatus tag) s = .next t ∧
    t = { s with port := { s.port with
      lost := false
      inHand := none
      replies := s.port.replies ++ [⟨0x01, tag, .ok, .status
        { mode := s.ctl.mode, haltCause := s.ctl.haltCause, startCause := s.ctl.startCause, linkMode := s.link.mode,
          dup := s.link.dup, selector := s.bay.selectorState,
          active := s.seq.active.map fun p => (p.handle, p.phase.name), queueLength := s.seq.queue.length,
          events := s.port.events.length, lost := s.port.lost, captureLocked := s.port.capture.isSome }⟩] } } ∧
      ∀ ph : Phase, ph.name = match ph with
        | .queued => .queued | .claiming => .claiming | .guard _ _ => .guard | .driving => .driving
        | .finished => .finished

/-- R171, R172 and R174 with the queue's rule (R170): READ_EVENT takes the head of the queue or answers EMPTY;
READ_CAPTURE returns the capture or answers EMPTY and UNLOCK_CAPTURE empties it; an event joins the tail of a queue of
fewer than 32, else it is lost and the flag set; ALERT is asserted exactly while the queue or the capture holds something,
without supply too, which is the model's choice (log 36). -/
def Obligations.EventsCaptureAndAlert : Prop :=
  (∀ (s : State) (tag : Byte), s.free → (s.ctl.mode = .quiet ∨ s.ctl.mode = .run) →
    (s.port.events = [] → exec (.readEvent tag) s = .next (s.replied 0x23 tag .empty .none)) ∧
    (∀ e rest, s.port.events = e :: rest → ∃ t, exec (.readEvent tag) s = .next t ∧
      t = { s with port := { s.port with
        events := rest, inHand := none, replies := s.port.replies ++ [⟨0x23, tag, .ok, .event e⟩] } }) ∧
    (s.port.capture = none → exec (.readCapture tag) s = .next (s.replied 0x24 tag .empty .none)) ∧
    (∀ c, s.port.capture = some c → exec (.readCapture tag) s = .next (s.replied 0x24 tag .ok (.capture c))) ∧
    (∃ t, exec (.unlockCapture tag) s = .next t ∧
      t = { s with port := { s.port with
        capture := none, inHand := none, replies := s.port.replies ++ [⟨0x25, tag, .ok, .none⟩] } })) ∧
  (∀ (s : State) (b : EventBody),
    (s.port.events.length < 32 →
      s.event b = { s with port := { s.port with events := s.port.events ++ [⟨s.now, b⟩] } } ∧ (s.event b).alert = true) ∧
    (32 ≤ s.port.events.length → s.event b = { s with port := { s.port with lost := true } })) ∧
  (∀ s : State, s.alert = true ↔ s.port.events ≠ [] ∨ s.port.capture ≠ none)

/-- READ_POINT in QUIET and RUN (R54): the items of the entry with its id, a local switch with its raw contact pair, a
remote point with the record of its owner and the time to expiry while that is GOOD and not reached; NO_SUCH_POINT
exactly for an id that no entry has; nothing else changes. That the raw pair is a local switch's and no remote point's
is R54's table, which the model follows where section 12.3 puts a 0 in its place for a local point (log 38, DEDUCED). -/
def Obligations.ReadPointReports : Prop :=
  ∀ (s : State) (tag : Byte) (point : Nat), s.free → (s.ctl.mode = .quiet ∨ s.ctl.mode = .run) →
    (s.entry? point = none ↔ ∀ e ∈ s.image.entries, e.id ≠ point) ∧
    (∀ e, s.entry? point = some e → e ∈ s.image.entries ∧ e.id = point) ∧
    (∀ unit, (s.peer? unit = none ↔ ∀ p ∈ s.image.peers, p.unit ≠ unit) ∧
      ∀ p, s.peer? unit = some p → p ∈ s.image.peers ∧ p.unit = unit) ∧
    (s.entry? point = none → exec (.readPoint tag point) s = .next (s.replied 0x20 tag .noSuchPoint .none)) ∧
    (∀ e, s.entry? point = some e →
      (e.owner = s.unit → exec (.readPoint tag point) s = .next (s.replied 0x20 tag .ok (.point
        { id := e.id, kind := e.kind, owner := e.owner, value := e.value, suspect := e.kind.isSwitch && e.suspect,
          presence := e.presence, quality := s.quality e,
          raw := if e.kind.isSwitch then some (s.rawPair e.id) else none, ownerStatus := none, lastState := 0,
          lastRepeat := 0, toExpiry := 0 }))) ∧
      (∀ p, e.owner ≠ s.unit → s.peer? e.owner = some p →
        exec (.readPoint tag point) s = .next (s.replied 0x20 tag .ok (.point
          { id := e.id, kind := e.kind, owner := e.owner, value := e.value, suspect := e.kind.isSwitch && e.suspect,
            presence := e.presence, quality := s.quality e, raw := none, ownerStatus := some p.status,
            lastState := p.lastState, lastRepeat := p.lastRepeat,
            toExpiry := if p.status = .good ∧ s.reached p.expiry = false then (p.expiry - s.now).toNat else 0 }))))

/-- R42: the quality of an entry, case by case; the clock itself is applied at every reading. -/
def Obligations.QualityIsDerived : Prop :=
  ∀ (s : State) (e : PointEntry),
    (e.owner = s.unit → s.quality e = if e.value = none then .never else .good) ∧
    (∀ p, e.owner ≠ s.unit → s.peer? e.owner = some p →
      (p.status = .never → s.quality e = .never) ∧ (p.status = .stale → s.quality e = .stale) ∧
      (p.status = .withdrawn → s.quality e = .withdrawn) ∧
      (p.status = .good → s.reached p.expiry = true → s.quality e = .stale) ∧
      (p.status = .good → s.reached p.expiry = false →
        (e.presence = .held → s.quality e = .good) ∧ (e.presence = .missing → s.quality e = .missing) ∧
        (e.presence = .never → s.quality e = .never)) ∧
      (s.quality e = .good ↔ p.status = .good ∧ s.reached p.expiry = false ∧ e.presence = .held))

/-- READ_NODE in QUIET and RUN (R73): the facts of the plain colouring with no prospect and the colour of R68's table;
node 0 is EARTH; a number above the highest node is answered NO_SUCH_NODE. -/
def Obligations.ReadNodeShowsTheColour : Prop :=
  ∀ (s : State) (tag : Byte) (node : Nat), s.free → (s.ctl.mode = .quiet ∨ s.ctl.mode = .run) →
    (s.ctl.model.highNode < node → exec (.readNode tag node) s = .next (s.replied 0x21 tag .noSuchNode .none)) ∧
    (node ≤ s.ctl.model.highNode → ∃ live earthed colour,
      exec (.readNode tag node) s = .next (s.replied 0x21 tag .ok (.node node live earthed colour)) ∧
      (node = 0 → live = .no ∧ earthed = .yes ∧ colour = .earthed) ∧
      (node ≠ 0 →
        let c := s.colouring .plain none
        (live = .yes ↔ node ∈ c.liveCertain) ∧ (live = .maybe ↔ node ∈ c.livePossible ∧ node ∉ c.liveCertain) ∧
        (earthed = .yes ↔ node ∈ c.earthCertain) ∧
        (earthed = .maybe ↔ node ∈ c.earthPossible ∧ node ∉ c.earthCertain)) ∧
      (colour = .dead ↔ live = .no ∧ earthed = .no) ∧ (colour = .live ↔ live = .yes ∧ earthed = .no) ∧
      (colour = .earthed ↔ live = .no ∧ earthed = .yes) ∧ (colour = .clash ↔ live = .yes ∧ earthed = .yes) ∧
      (colour = .unsure ↔ live = .maybe ∨ earthed = .maybe))

/-- READ_CLAIMS in QUIET and RUN (R144): the active program, and for each zone of the table in its order the own state
and the entries not yet expired, best rank first, with the time to each one's expiry; nothing else changes. The own
state and the entries of a zone are those of its record; a zone with no record is IDLE with no entries; the held zones
are those whose own state is HELD, in rising order (R123, R127). -/
def Obligations.ReadClaimsRanksEntries : Prop :=
  (∀ (s : State) (tag : Byte), s.free → (s.ctl.mode = .quiet ∨ s.ctl.mode = .run) →
    ∃ zones, exec (.readClaims tag) s = .next (s.replied 0x22 tag .ok
        (.claims (s.seq.active.map fun p => (p.handle, p.urgency, p.defer)) zones)) ∧
      zones.length = s.claims.zones.length ∧
      ∀ (i : Nat) (c : ZoneClaim) (z : ZoneReply), s.claims.zones[i]? = some c → zones[i]? = some z →
        z.zone = c.zone ∧ (z.own = .idle ↔ c.own = .idle) ∧ (z.own = .waiting ↔ c.own = .waiting) ∧
        (z.own = .held ↔ c.own.isHeld = true) ∧
        ∃ ranked : List PeerClaim, ranked.Perm (c.peers.filter fun e => s.reached e.expiry = false) ∧
          ranked.Pairwise (fun a b => b.rank.better a.rank = false) ∧
          z.entries = ranked.map fun e => ⟨e.unit, e.kind, e.urgency, e.defer, (e.expiry - s.now).toNat⟩) ∧
  (∀ o : OwnState, o.isHeld = true ↔ ∃ refresh, o = .held refresh) ∧
  ∀ s : State, s.zoneInv →
    (∀ c ∈ s.claims.zones, s.zone? c.zone = some c ∧ s.own c.zone = c.own ∧ s.peersOf c.zone = c.peers) ∧
    (∀ z, (∀ c ∈ s.claims.zones, c.zone ≠ z) → s.zone? z = none ∧ s.own z = .idle ∧ s.peersOf z = []) ∧
    s.heldZones.Pairwise (· < ·) ∧ ∀ z, z ∈ s.heldZones ↔ (s.own z).isHeld = true

/-! ### Colourings and evaluations (chapters 4 and 5) -/

/-- R64: a node is reachable exactly when a chain of paths, in either direction, joins it to a start node. -/
def Obligations.ReachIsExactlyTheChains : Prop :=
  ∀ (edges : List (Nat × Nat)) (seeds : List Nat) (n : Nat),
    n ∈ reach edges seeds ↔ ∃ m ∈ seeds, Relation.ReflTransGen (Joined edges) m n

/-- What a colouring is, in any reading and with any prospect. The classes: a switch is CC or CO by a CLOSED or OPEN value
that is GOOD and not suspect, a voltage point VP or VA by a PRESENT or ABSENT value that is GOOD, else they are unsure, which
a favourable reading takes its way (R60, R61, R63); a prospect's switch has its forced class (R62). The live and earth sets
are what chains of breakers and disconnectors, of class CC or of CC and UN, join to the source nodes, of class VP or of VP
and VU, and to the nodes that carry an earthing switch of those classes (R64 to R66). The certain sets lie in the possible
ones; the facts are drawn from them, node 0 not live and earthed, and in a favourable reading no fact is MAYBE (R65 to R68).
The island of an end, its isolation, bridging and the region of a prospect are what chains with the switch left out, or from
its conductor nodes, reach (R69 to R72). -/
def Obligations.CertainIsPossibleAndFavourableIsSure : Prop :=
  ∀ (s : State) (r : Reading) (pr : Option Prospect),
    (∀ n ∈ (s.colouring r pr).liveCertain, n ∈ (s.colouring r pr).livePossible) ∧
    (∀ n ∈ (s.colouring r pr).earthCertain, n ∈ (s.colouring r pr).earthPossible) ∧
    (r ≠ .plain → ∀ n, (s.colouring r pr).live n ≠ .maybe ∧ (s.colouring r pr).earthed n ≠ .maybe) ∧
    (∀ (id : Nat) (e : PointEntry), s.entry? id = some e →
      (∀ p, pr = some p → p.switch = id →
        s.switchClass r pr id = match p.target with | .closed => .cc | .opened => .co) ∧
      ((∀ p, pr = some p → p.switch ≠ id) →
        s.switchClass r pr id =
          if s.quality e = .good ∧ e.suspect = false ∧ e.value = some .closed then .cc
          else if s.quality e = .good ∧ e.suspect = false ∧ e.value = some .opened then .co
          else match r with | .plain => .un | .closedFavourable => .cc | .openFavourable => .co) ∧
      s.voltageClass r id =
        if s.quality e = .good ∧ e.value = some .present then .vp
        else if s.quality e = .good ∧ e.value = some .absent then .va
        else if r = .plain then .vu else .va) ∧
    let c := s.colouring r pr
    let cc := fun k : SwitchClass => k = .cc
    let ccOrUn := fun k : SwitchClass => k ≠ .co
    (∀ n,
      (n ∈ c.liveCertain ↔ ∃ m, s.sourceAt r (· = .vp) m ∧ s.Chain r pr cc none m n) ∧
      (n ∈ c.livePossible ↔ ∃ m, s.sourceAt r (· ≠ .va) m ∧ s.Chain r pr ccOrUn none m n) ∧
      (n ∈ c.earthCertain ↔ ∃ m, s.earthAt r pr cc m ∧ s.Chain r pr cc none m n) ∧
      (n ∈ c.earthPossible ↔ ∃ m, s.earthAt r pr ccOrUn m ∧ s.Chain r pr ccOrUn none m n) ∧
      (c.live n = .yes ↔ n ≠ 0 ∧ n ∈ c.liveCertain) ∧ (c.live n = .no ↔ n = 0 ∨ n ∉ c.livePossible) ∧
      (c.earthed n = .yes ↔ n = 0 ∨ n ∈ c.earthCertain) ∧ (c.earthed n = .no ↔ n ≠ 0 ∧ n ∉ c.earthPossible)) ∧
    (∀ id x y : Nat,
      (∀ n, n ∈ c.island id x ↔ s.Chain r pr ccOrUn (some id) x n) ∧
      (c.isolated id x = true ↔
        ∀ n, s.Chain r pr ccOrUn (some id) x n → ¬ s.sourceAt r (· ≠ .va) n ∧ ¬ s.earthAt r pr ccOrUn n) ∧
      (c.bridged id x y = true ↔ s.Chain r pr cc (some id) x y)) ∧
    ∀ (p : PointDef) (n : Nat), n ∈ c.region p ↔
      s.Chain r pr ccOrUn none p.nodeA n ∨ p.kind ≠ .earthing ∧ s.Chain r pr ccOrUn none p.nodeB n

/-- CHECK in QUIET and RUN (R88), and the first checks of an evaluation (R77 to R80): suspect, moving and at-target come
before the extra conditions, which are taken in order; the first that is not met refuses with its index and point, CERTAIN
only if it was judged on a sure value. A CHECK changes nothing. That a point not in the table is answered NO_SUCH_POINT
whatever the target is the model's choice, since R88 gives its two refusals no order (log 34, DESIGN CHOICE). -/
def Obligations.ChecksStopAtTheFirstFailure : Prop :=
  (∀ (s : State) (tag : Byte) (point target : Nat), s.free → (s.ctl.mode = .quiet ∨ s.ctl.mode = .run) →
    (s.ctl.model.point? point = none →
      exec (.check tag point target) s = .next (s.replied 0x13 tag .noSuchPoint .none)) ∧
    (∀ p, s.ctl.model.point? point = some p →
      ((p.kind.isSwitch = false ∨ p.owner ≠ s.unit ∨ (target ≠ 1 ∧ target ≠ 2)) →
        exec (.check tag point target) s = .next (s.replied 0x13 tag .badRequest .none)) ∧
      (p.kind.isSwitch = true → p.owner = s.unit →
        (target = 1 → exec (.check tag point target) s =
          .next (s.replied 0x13 tag .ok (.verdict (s.evaluate point .opened)))) ∧
        (target = 2 → exec (.check tag point target) s =
          .next (s.replied 0x13 tag .ok (.verdict (s.evaluate point .closed))))))) ∧
  (∀ (s : State) (id : Nat) (t : Target) (e : PointEntry) (p : PointDef),
    s.entry? id = some e → s.ctl.model.point? id = some p →
    (e.suspect = true → s.evaluate id t = .refuse ⟨.switchSuspect, 0, 0, 0, .certain⟩) ∧
    (e.suspect = false → e.value = some .travel → s.evaluate id t = .refuse ⟨.switchMoving, 0, 0, 0, .certain⟩) ∧
    (e.suspect = false → e.value = some t.value → s.evaluate id t = .permit true) ∧
    (e.suspect = false → e.value ≠ some .travel → e.value ≠ some t.value →
      ∀ (d : LocalDef) (i : Nat) (c : Condition), s.ctl.model.local? p.id = some d →
        (match t with | .closed => d.closeConditions | .opened => d.openConditions)[i]? = some c →
        (∀ (j : Nat) (b : Condition), j < i →
          (match t with | .closed => d.closeConditions | .opened => d.openConditions)[j]? = some b → s.meets b) →
        ¬ s.meets c →
        ∃ q, s.evaluate id t = .refuse ⟨.extraCondition, i + 1, c.point, 0, q⟩ ∧ (q = .certain ↔ s.judgesSurely c)))

/-- The electrical checks (R81 to R87) of a switch that the first three checks pass: what a PERMIT to move guarantees and
what each refusal says, the node of a clash the lowest that offends, the qualifier the answer of the favourable readings.
Where the first checks and the conditions pass (R77 to R80), a kind rule that fails refuses with its reason, a clash that is
left then refuses CLASH_RISK, and where both checks pass the answer is PERMIT, not at target (R76, R77). -/
def Obligations.ElectricalChecksDecide : Prop :=
  ∀ (s : State) (id : Nat) (t : Target) (p : PointDef), s.ctl.model.point? id = some p →
    let plain := s.colouring .plain none
    let pr : Option Prospect := some ⟨id, .closed⟩
    let inDanger := fun (r : Reading) (n : Nat) =>
      n ∈ (s.colouring r pr).region p ∧ (s.colouring r pr).live n ≠ .no ∧ (s.colouring r pr).earthed n ≠ .no
    (s.evaluate id t = .permit false →
      (p.kind = .disconnector → plain.bridged id p.nodeA p.nodeB = true ∨ plain.isolated id p.nodeA = true ∨
        plain.isolated id p.nodeB = true) ∧
      (p.kind = .earthing → t = .closed → plain.live p.nodeA = .no) ∧
      (t = .closed → ∀ n, ¬ inDanger .plain n)) ∧
    (∀ r, s.evaluate id t = .refuse r →
      (r.reason = .notIsolated → p.kind = .disconnector ∧ plain.bridged id p.nodeA p.nodeB = false ∧
        plain.isolated id p.nodeA = false ∧ plain.isolated id p.nodeB = false ∧
        (r.qualifier = .unsure ↔ (s.colouring .closedFavourable none).bridged id p.nodeA p.nodeB = true ∨
          (s.colouring .openFavourable none).isolated id p.nodeA = true ∨
          (s.colouring .openFavourable none).isolated id p.nodeB = true)) ∧
      (r.reason = .nodeNotDead → p.kind = .earthing ∧ t = .closed ∧ r.node = p.nodeA ∧ plain.live p.nodeA ≠ .no ∧
        (r.qualifier = .unsure ↔ (s.colouring .openFavourable none).live p.nodeA = .no)) ∧
      (r.reason = .clashRisk → t = .closed ∧ inDanger .plain r.node ∧ (∀ n, inDanger .plain n → r.node ≤ n) ∧
        (r.qualifier = .unsure ↔ ∀ n, ¬ inDanger .openFavourable n))) ∧
    (∀ e, s.entry? id = some e → e.suspect = false → e.value ≠ some .travel → e.value ≠ some t.value →
      (∀ d, s.ctl.model.local? id = some d →
        ∀ c ∈ (match t with | .closed => d.closeConditions | .opened => d.openConditions), s.meets c) →
      let joined := plain.bridged id p.nodeA p.nodeB = true ∨ plain.isolated id p.nodeA = true ∨
        plain.isolated id p.nodeB = true
      (p.kind = .disconnector → ¬ joined → ∃ r, s.evaluate id t = .refuse r ∧ r.reason = .notIsolated) ∧
      (p.kind = .earthing → t = .closed → plain.live p.nodeA ≠ .no →
        ∃ r, s.evaluate id t = .refuse r ∧ r.reason = .nodeNotDead) ∧
      ((p.kind = .disconnector → joined) → (p.kind = .earthing → t = .closed → plain.live p.nodeA = .no) →
        (t = .closed → (∃ n, inDanger .plain n) → ∃ r, s.evaluate id t = .refuse r ∧ r.reason = .clashRisk) ∧
        ((t = .closed → ∀ n, ¬ inDanger .plain n) → s.evaluate id t = .permit false)))

/-! ### Programs (chapter 9) -/

/-- OPERATE and PROGRAM in RUN (R168, R145): form, selector and link are checked in this order, then the queue; a
request that passes puts one record at the tail, QUEUED with a handle and its zones, and the head is taken up if none is
active. The zones that a switch requires are exactly those of the model that hold its node A or, but for an earthing
switch, its node B (R6), and a local switch is a breaker, disconnector or earthing switch that the unit owns (R2, R3),
in a model whose ids are distinct, as loading leaves them (LoadedModelObeysTheLimits). -/
def Obligations.ProgramsAreAdmitted : Prop :=
  (∀ (s : State) (tag : Byte) (urgency : Nat) (fields : List StepField) (c : Instr) (req : Request),
    s.free → s.ctl.mode = .run →
    ((req = .program urgency fields ∧ c = .program tag urgency fields) ∨
      ∃ point target, fields = [⟨point, target⟩] ∧ req = .operate urgency point target ∧
        c = .operate tag urgency point target) →
    let good := fun f : StepField => s.ctl.model.isLocalSwitch f.point = true ∧ (f.target = 1 ∨ f.target = 2)
    let type := requestTypeCode req
    ((3 < urgency ∨ fields.length = 0 ∨ 8 < fields.length ∨ ∃ f ∈ fields, ¬ good f) →
      exec c s = .next (s.replied type tag .badRequest .none)) ∧
    (urgency ≤ 3 → 1 ≤ fields.length → fields.length ≤ 8 → (∀ f ∈ fields, good f) →
      (s.bay.selectorState ≠ .remote → exec c s = .next (s.replied type tag .selectorLocal .none)) ∧
      (s.bay.selectorState = .remote → s.link.mode = .muted →
        exec c s = .next (s.replied type tag .linkDown .none)) ∧
      (s.bay.selectorState = .remote → s.link.mode = .active → 4 ≤ s.seq.queue.length →
        exec c s = .next (s.replied type tag .queueFull .none)) ∧
      (s.bay.selectorState = .remote → s.link.mode = .active → s.seq.queue.length < 4 →
        let h := s.newHandle
        let steps := fields.map fun f => (⟨f.point, if f.target = 1 then .opened else .closed⟩ : Step)
        let zones := (s.ctl.model.zones.map (·.number)).filter fun z =>
          steps.any fun st => (s.ctl.model.required st.switch).contains z
        let record : Program :=
          { handle := h, urgency := urgency, steps := steps, stepIndex := 0, phase := .queued, zones := zones, defer := 0,
            claimStart := none, pendingStop := none, pendingYield := none, clashOffered := false, ending := none }
        let u := { s.holding tag req with
          seq := { s.seq with queue := s.seq.queue ++ [record], nextHandle := if h = 255 then 1 else h + 1 } }
        h ≤ 255 → exec c s = .next (u.takeUpNext.replied type tag .ok (.handle h))))) ∧
  ∀ (m : YardModel) (id : Nat), (m.points.map (·.id)).Nodup →
    let isSwitch := fun k : PointKind => k = .breaker ∨ k = .disconnector ∨ k = .earthing
    (∀ k : PointKind, k.isSwitch = true ↔ isSwitch k) ∧
    (∀ p, m.point? id = some p ↔ p ∈ m.points ∧ p.id = id) ∧
    (m.isSwitch id = true ↔ ∃ p ∈ m.points, p.id = id ∧ isSwitch p.kind) ∧
    (m.isLocalSwitch id = true ↔ ∃ p ∈ m.points, p.id = id ∧ isSwitch p.kind ∧ p.owner = m.unit) ∧
    ∀ z, z ∈ m.required id ↔ ∃ p ∈ m.points, p.id = id ∧ isSwitch p.kind ∧
      ∃ y ∈ m.zones, y.number = z ∧ (p.nodeA ∈ y.nodes ∨ p.kind ≠ .earthing ∧ p.nodeB ∈ y.nodes)

/-- R146: the handle given is the first value from the next handle on that no queued or active program bears, 255
followed by 1; it is found within six tries and is never 0. The handles borne are those of the queue and of the active
program. -/
def Obligations.HandlesAreFree : Prop :=
  ∀ s : State, s.programInv →
    let nth := fun k => (s.seq.nextHandle - 1 + k) % 255 + 1
    (∃ k, k < 6 ∧ s.newHandle = nth k ∧ nth k ∉ s.handlesInUse ∧ ∀ j < k, nth j ∈ s.handlesInUse) ∧
    ∀ h, h ∈ s.handlesInUse ↔ (∃ p ∈ s.seq.queue, p.handle = h) ∨ ∃ p, s.seq.active = some p ∧ p.handle = h

/-- R148 and R149: with a program active or an empty queue nothing is taken up. Else the head of the queue becomes active at
step 1 and is prechecked: REFUSE ends it with the evaluator's result and the next is taken up; PERMIT with no zones leads to
GUARD, whose test follows at once; PERMIT with zones leads to CLAIMING, the job its list and its lowest zone asked for. -/
def Obligations.NextProgramIsTakenUp : Prop :=
  ∀ s : State,
    (s.seq.active.isSome = true ∨ s.seq.queue = [] → s.takeUpNext = s) ∧
    (∀ (q : Program) (rest : List Program) (st : Step) (more : List Step),
      s.seq.active = none → s.seq.queue = q :: rest → q.steps = st :: more →
      let p := { q with stepIndex := 1 }
      let v := { s with seq := { s.seq with queue := rest, active := some p } }
      (∀ r, v.evaluate st.switch st.target = .refuse r →
        ∃ w, EndedWith v w p (refusedBy r 1) ∧ s.takeUpNext = w.takeUpNext) ∧
      (∀ b, v.evaluate st.switch st.target = .permit b → q.zones = [] → s.running = true →
        exec .guardReleaseTime (v.atGuard p) = .next s.takeUpNext) ∧
      (∀ b z zs, v.evaluate st.switch st.target = .permit b → q.zones = z :: zs →
        s.takeUpNext =
          ({ v with
            seq := { v.seq with active := some { p with phase := .claiming, claimStart := some s.now } }
            claims := { s.claims with job := some q.zones } }).asks z))

/-- R157: CANCEL by the state of the program that bears the handle. -/
def Obligations.CancelByState : Prop :=
  ∀ (s : State) (tag : Byte) (h : Nat), s.free → (s.ctl.mode = .quiet ∨ s.ctl.mode = .run) →
    let v := s.holding tag (.cancel h)
    (h ∉ s.handlesInUse → exec (.cancel tag h) s = .next (s.replied 0x12 tag .unknownHandle .none)) ∧
    (h ∈ s.seq.queue.map (·.handle) → (∀ p, s.seq.active = some p → p.handle ≠ h) →
      exec (.cancel tag h) s =
        .next ((({ v with seq := { s.seq with queue := s.seq.queue.filter fun p => p.handle ≠ h } }).raise
          [.programEnd h (plainEnd .cancelled none 0)]).replied 0x12 tag .ok .none)) ∧
    (∀ p, s.seq.active = some p → p.handle = h →
      (p.phase ≠ .driving → ∃ w, EndedWith v w p (plainEnd .cancelled none p.stepIndex) ∧
        exec (.cancel tag h) s = .next (w.takeUpNext.replied 0x12 tag .ok .none)) ∧
      (p.phase = .driving → exec (.cancel tag h) s =
        .next ((s.withActive { p with pendingStop := some (p.pendingStop.getD .cancel) }).replied 0x12 tag .ok .none)))

/-- DRIVE_END_REPORT (R154 to R156, R161, R164): a completed step raises STEP_COMPLETE; then a pending stop ends the
program, else a failure does, else the last step ends it DONE; otherwise the next step is prechecked, and the program
ends REFUSED, gives its zones back for a pending yield, or goes to GUARD. The report is taken. The pending yield's zone
and unit, which CLAIM_YIELDED names, are those of the request that set it (log 17). -/
def Obligations.DriveEndDecidesWhatFollows : Prop :=
  ∀ (s : State) (r : DriveReport) (p : Program) (st : Step),
    s.running = true → s.bay.report = some r → s.seq.active = some p → p.phase = .driving →
    p.steps[p.stepIndex - 1]? = some st → 1 ≤ p.stepIndex →
    let s0 := { s with bay := { s.bay with report := none } }
    let u := match r with
      | .completed => s0.raise [.stepComplete p.handle p.stepIndex st.switch .driven]
      | .failed _ => s0
    (∀ c, p.pendingStop = some c →
      ∃ w, EndedWith u w p (stoppedBy c p.stepIndex) ∧ exec .driveEndReport s = .next w.takeUpNext) ∧
    (∀ k reason, p.pendingStop = none → r = .failed k →
      ((k = .travelTimeout ∧ reason = .travelTimeout) ∨ (k = .wrongEnd ∧ reason = .wrongEnd) ∨
        (k = .badPosition ∧ reason = .badPosition)) →
      ∃ w, EndedWith u w p (plainEnd .failed (some reason) p.stepIndex) ∧ exec .driveEndReport s = .next w.takeUpNext) ∧
    (p.pendingStop = none → r = .completed → p.stepIndex = p.steps.length →
      ∃ w, EndedWith u w p (plainEnd .done none p.stepIndex) ∧ exec .driveEndReport s = .next w.takeUpNext) ∧
    (∀ nxt, p.pendingStop = none → r = .completed → p.steps[p.stepIndex]? = some nxt →
      let q := { p with stepIndex := p.stepIndex + 1, pendingStop := none, pendingYield := none, clashOffered := false }
      let v := u.withActive q
      (∀ f, v.evaluate nxt.switch nxt.target = .refuse f →
        ∃ w, EndedWith v w q (refusedBy f q.stepIndex) ∧ exec .driveEndReport s = .next w.takeUpNext) ∧
      (∀ b y, v.evaluate nxt.switch nxt.target = .permit b → p.pendingYield = some y →
        ∃ t, exec .driveEndReport s = .next t ∧ GiveBackEnds v t q .yieldRequest y) ∧
      (∀ b, v.evaluate nxt.switch nxt.target = .permit b → p.pendingYield = none →
        exec .driveEndReport s = exec .guardReleaseTime (u.atGuard q)))

/-- R140 and R151: the claim deadline ends a program in CLAIMING, REFUSED(CLAIM_TIMEOUT) and UNSURE; the guard deadline ends
one in GUARD, FAILED(GUARD_TIMEOUT), with no fault; in any other state neither has any effect. That their commands have
none before the time is the model's choice (log 2, DESIGN CHOICE). -/
def Obligations.DeadlinesEndPrograms : Prop :=
  ∀ s : State, s.running = true →
    (∀ p, s.seq.active = some p →
      (p.phase = .claiming → s.outOfPatience p →
        ∃ w, EndedWith s w p (timedOut p.stepIndex) ∧ exec .claimDeadline s = .next w.takeUpNext) ∧
      (p.phase ≠ .claiming ∨ ¬ s.outOfPatience p → exec .claimDeadline s = .next s) ∧
      (∀ release deadline, p.phase = .guard release deadline →
        (s.reached deadline = true →
          ∃ w, EndedWith s w p (plainEnd .failed (some .guardTimeout) p.stepIndex) ∧
            exec .guardDeadline s = .next w.takeUpNext) ∧
        (s.reached deadline = false → exec .guardDeadline s = .next s)) ∧
      (p.phase.name ≠ .guard → exec .guardDeadline s = .next s)) ∧
    (s.seq.active = none → exec .claimDeadline s = .next s ∧ exec .guardDeadline s = .next s)

/-- GUARD_RELEASE_TIME (R150, R152, R153, R155, R156): a guard not satisfied sets a new release time from the stored
times; satisfied, VERIFY decides: the drive begins, with one coil energised and nothing else changed, or fails at once
where the switch is at neither end (R29); REFUSE ends the program; at target the step completes ALREADY, and the program
is DONE or its next step is prechecked and tested in the same act. That the command has no effect before the release
time is the model's choice (log 2, DESIGN CHOICE). The new release time is the latest in the order of R119 (log 21); a
drive order fails so wherever the switch is not at the end opposite its target (log 16). The stored times are the
switch's completion time and its recovery time after it, and for each zone that the switch requires the movement time
and the settle time after it (R150). -/
def Obligations.GuardIsTestedAndVerified : Prop :=
  ∀ (s : State) (p : Program) (st : Step) (release deadline : Time),
    s.running = true → s.seq.active = some p → p.phase = .guard release deadline → 1 ≤ p.stepIndex →
    p.steps[p.stepIndex - 1]? = some st →
    let completion := ((s.localPoint? st.switch).bind (·.completion)).toList.map fun c =>
      c + BitVec.ofNat 32 (s.recovery st.switch)
    let settled := (s.ctl.model.required st.switch).filterMap fun z => (s.move? z).map fun m =>
      m + BitVec.ofNat 32 s.params.settle
    let waits := (completion ++ settled).filter fun x => s.reached x = false
    let driving := { p with phase := .driving, pendingStop := none, pendingYield := none }
    s.guardTimes st.switch = completion ++ settled ∧
    (∀ z, ((∀ m ∈ s.image.moves, m.zone ≠ z) → s.move? z = none) ∧
      ∀ m ∈ s.image.moves, m.zone = z → (s.image.moves.map (·.zone)).Nodup → s.move? z = m.time) ∧
    (s.reached release = false → exec .guardReleaseTime s = .next s) ∧
    (s.reached release = true →
      (waits ≠ [] → ∃ x ∈ completion ++ settled,
        (∀ b : Time, (∀ y ∈ completion ++ settled, (y - b).toNat < 2147483648) →
          ∀ y ∈ completion ++ settled, (y - b).toNat ≤ (x - b).toNat) ∧
        exec .guardReleaseTime s = .next (s.withActive { p with phase := .guard x deadline })) ∧
      (waits = [] →
        (∀ r, s.evaluate st.switch st.target = .refuse r →
          ∃ w, EndedWith s w p (refusedBy r p.stepIndex) ∧ exec .guardReleaseTime s = .next w.takeUpNext) ∧
        (s.evaluate st.switch st.target = .permit false →
          ((s.localPoint? st.switch).bind (·.value) = some st.target.startEnd → ∃ t,
            exec .guardReleaseTime s = .next t ∧
            t = ({ s.withActive driving with bay := { s.bay with
              drive := some ⟨st.switch, st.target, s.now, s.now + BitVec.ofNat 32 (s.runTime st.switch), false,
                p.handle, p.stepIndex⟩ } }).pointSet st.switch (fun q => { q with stuck := none }) ∧
            ∀ l, s.ctl.model.local? st.switch = some l → t.coils = [(l.coil, st.target)]) ∧
          ((s.localPoint? st.switch).bind (·.value) ≠ some st.target.startEnd →
            exec .guardReleaseTime s =
              .next (((s.withActive driving).afterFailure .badPosition st.switch
                (some (p.handle, p.stepIndex))).handOver st.switch))) ∧
        (s.evaluate st.switch st.target = .permit true →
          let u := s.raise [.stepComplete p.handle p.stepIndex st.switch .already]
          (p.stepIndex = p.steps.length →
            ∃ w, EndedWith u w p (plainEnd .done none p.stepIndex) ∧ exec .guardReleaseTime s = .next w.takeUpNext) ∧
          (∀ nxt, p.steps[p.stepIndex]? = some nxt →
            let q := { p with stepIndex := p.stepIndex + 1 }
            let v := u.withActive q
            (∀ r, v.evaluate nxt.switch nxt.target = .refuse r →
              ∃ w, EndedWith v w q (refusedBy r q.stepIndex) ∧ exec .guardReleaseTime s = .next w.takeUpNext) ∧
            (∀ b, v.evaluate nxt.switch nxt.target = .permit b →
              exec .guardReleaseTime s = exec .guardReleaseTime (u.atGuard q))))))

/-- FILTER_TIMER_EXPIRY of the selector (R19, R23, R24, R159): the pending reading becomes the filtered one; a changed
selector state raises SELECTOR_CHANGED; a turn to LOCAL in RUN ends the active program unless it is in DRIVING, where
the stop is left pending, and then every queued program, oldest first. That the command has no effect before the filter
time is the model's choice (log 2, DESIGN CHOICE). The state is the filtered reading, or LOCAL before the first
(R24). -/
def Obligations.SelectorTurnsTakePrograms : Prop :=
  ∀ (s : State) (r : Selector) (since : Time),
    s.working = true → s.bay.selector.pending = some (r, since) →
    let v := { s with bay := { s.bay with selector := ⟨some r, none⟩ } }
    (s.bay.selectorState = match s.bay.selector.value with | some state => state | none => .atBay) ∧
    (s.reached (since + BitVec.ofNat 32 s.params.filterTime) = false → exec (.filterTimerExpiry .selector) s = .next s) ∧
    (s.reached (since + BitVec.ofNat 32 s.params.filterTime) = true →
      (r = s.bay.selectorState → exec (.filterTimerExpiry .selector) s = .next v) ∧
      (r ≠ s.bay.selectorState → r = .remote ∨ s.running = false →
        exec (.filterTimerExpiry .selector) s = .next (v.raise [.selectorChanged r])) ∧
      (r ≠ s.bay.selectorState → r = .atBay → s.running = true →
        let u := v.raise [.selectorChanged .atBay]
        let emptied := fun x : State =>
          { x with seq := { x.seq with queue := [] }, port := (x.raise (queueEnds .localTakeover s.seq.queue)).port }
        (s.seq.active = none → exec (.filterTimerExpiry .selector) s = .next (emptied u)) ∧
        (∀ p, s.seq.active = some p →
          (p.phase = .driving → exec (.filterTimerExpiry .selector) s =
            .next (emptied (u.withActive { p with pendingStop := some (p.pendingStop.getD .localTakeover) }))) ∧
          (p.phase ≠ .driving → ∃ w, EndedWith u w p (plainEnd .aborted (some .localTakeover) p.stepIndex) ∧
            exec (.filterTimerExpiry .selector) s = .next (emptied w)))))

/-! ### Bay inputs and drives (chapter 2) -/

/-- RAW_INPUT_CHANGE (R19, R24): the line named takes the level and no other line changes. In QUIET and RUN the input's
new reading ends or replaces its pending reading; in the other modes nothing more happens. The readings are those of R20
to R23. A point's reading is its kind's reading at the input number of its local settings, its raw pair the levels of
the two contacts of that input, and its run time and recovery time those of its settings (R8, R20). The point that a
line feeds is the one whose settings name the line's input, a contact pair for a switch, a voltage input for a voltage
point and a binary input for a binary point; a line that no local point names feeds none (R8, R24). That a changed line
restarts the timer even for the reading already pending is R19 by its letter (log 29). -/
def Obligations.RawLineFormsAReading : Prop :=
  (∀ (s : State) (line : Line) (made : Bool), line.wellFormed = true →
    (s.bay.lines.level line = made → exec (.rawInputChange line made) s = .next s) ∧
    (s.bay.lines.level line ≠ made → ∃ t, exec (.rawInputChange line made) s = .next t ∧
      t.bay.lines.level line = made ∧
      (∀ other : Line, other.wellFormed = true → other ≠ line → t.bay.lines.level other = s.bay.lines.level other) ∧
      (s.working = false → t = { s with bay := { s.bay with lines := t.bay.lines } }) ∧
      (s.working = true → line = .selRemote ∨ line = .selLocal →
        let r := if t.bay.lines.selRemote = true ∧ t.bay.lines.selLocal = false then Selector.remote else .atBay
        t = { s with bay := { s.bay with
          lines := t.bay.lines
          selector :=
            ⟨s.bay.selector.value, if s.bay.selector.value = some r then none else some (r, s.now)⟩ } }) ∧
      (s.working = true → line ≠ .selRemote → line ≠ .selLocal →
        (s.ctl.model.fedBy line = none → t = { s with bay := { s.bay with lines := t.bay.lines } }) ∧
        (∀ id, s.ctl.model.fedBy line = some id →
          t = { s with bay := { s.bay with
            lines := t.bay.lines
            points := s.bay.points.map fun p =>
              if p.id = id then
                { p with pending := if p.value = some (t.rawReading id) then none else some ⟨t.rawReading id, s.now⟩ }
              else p } })))) ∧
  (∀ (l : Lines) (k : PointKind) (n : Nat),
    (k.isSwitch = true → l.reading k n =
      match l.level (.contactOpen n), l.level (.contactClosed n) with
      | true, false => .opened | false, true => .closed | false, false => .travel | true, true => .bad) ∧
    (k = .voltage → l.reading k n =
      match l.level (.healthy n), l.level (.presence n) with
      | true, true => .present | true, false => .absent | false, _ => .bad) ∧
    (k = .binary → l.reading k n = if l.level (.binary n) = true then .high else .low)) ∧
  (∀ l : Lines, l.selectorReading = if l.selRemote = true ∧ l.selLocal = false then .remote else .atBay) ∧
  (∀ (s : State) (id : Nat) (p : PointDef) (d : LocalDef), s.ctl.model.point? id = some p →
    s.ctl.model.local? id = some d →
    s.rawReading id = s.bay.lines.reading p.kind d.input ∧
    s.rawPair id = ⟨s.bay.lines.level (.contactOpen d.input), s.bay.lines.level (.contactClosed d.input)⟩ ∧
    s.runTime id = d.runTime ∧ s.recovery id = d.recovery) ∧
  ∀ (m : YardModel) (line : Line), (m.points.map (·.id)).Nodup → (m.locals.map (·.point)).Nodup →
    let feeds := fun (d : LocalDef) => ∃ p ∈ m.points, p.id = d.point ∧ match line with
      | .contactOpen n | .contactClosed n => p.kind.isSwitch = true ∧ d.input = n
      | .presence n | .healthy n => p.kind = .voltage ∧ d.input = n
      | .binary n => p.kind = .binary ∧ d.input = n
      | .selRemote | .selLocal => False
    (∀ id d, m.local? id = some d ↔ d ∈ m.locals ∧ d.point = id) ∧
    (m.fedBy line = none ↔ ∀ d ∈ m.locals, ¬ feeds d) ∧
    ((∀ d ∈ m.locals, ∀ e ∈ m.locals, feeds d → feeds e → d = e) →
      ∀ id, m.fedBy line = some id ↔ ∃ d ∈ m.locals, feeds d ∧ d.point = id)

/-- FILTER_TIMER_EXPIRY of a local point that is not under drive (R19, R25 to R27): the pending reading becomes the
filtered value; a switch changed from a value raises UNCOMMANDED_CHANGE, and its stuck timer runs exactly if it now
stands in TRAVEL and is not SUSPECT; then the entry's update is handed to the image. That the command has no effect
before the filter time is the model's choice (log 2, DESIGN CHOICE). The record is the one of that id. -/
def Obligations.UndrivenChangeIsHandled : Prop :=
  ∀ (s : State) (id : Nat) (p : LocalPoint) (r : PendingReading),
    s.working = true → s.localPoint? id = some p → p.pending = some r →
    (∀ d, s.bay.drive = some d → d.switch ≠ id) →
    p ∈ s.bay.points ∧ p.id = id ∧
    (s.reached (r.since + BitVec.ofNat 32 s.params.filterTime) = false →
      exec (.filterTimerExpiry (.point id)) s = .next s) ∧
    (s.reached (r.since + BitVec.ofNat 32 s.params.filterTime) = true →
      (s.ctl.model.isSwitch id = false →
        exec (.filterTimerExpiry (.point id)) s =
          .next ((s.pointSet id fun q => { q with value := some r.reading, pending := none }).handOver id)) ∧
      (s.ctl.model.isSwitch id = true →
        let reported := match p.value with
          | some old => s.raise [.uncommandedChange id old r.reading]
          | none => s
        exec (.filterTimerExpiry (.point id)) s =
          .next ((reported.pointSet id fun q =>
            { q with
              value := some r.reading
              pending := none
              stuck := if r.reading = PointValue.travel ∧ q.suspect = false then
                some (s.now + BitVec.ofNat 32 (s.runTime id)) else none }).handOver id)))

/-- FILTER_TIMER_EXPIRY of the driven switch (R25, R28, R30, R32, R33): at the target end the drive completes, the coil
off and the completion time set; BAD, or the start end after leaving it, is a failure; any other value sets the
left-start flag if it is not the start end. None of them is an uncommanded change. The entry's update follows. The coil
energised is the one that the switch's local settings give, in the drive's direction (R8, R28). -/
def Obligations.DriveIsSupervised : Prop :=
  ∀ (s : State) (p : LocalPoint) (r : PendingReading) (d : DriveRecord),
    s.working = true → s.bay.drive = some d → s.ctl.model.isSwitch d.switch = true →
    s.localPoint? d.switch = some p → p.pending = some r →
    s.reached (r.since + BitVec.ofNat 32 s.params.filterTime) = true →
    let v := s.pointSet d.switch fun q => { q with value := some r.reading, pending := none }
    (d.direction.value = match d.direction with | .opened => PointValue.opened | .closed => .closed) ∧
    (d.direction.startEnd = match d.direction with | .opened => PointValue.closed | .closed => .opened) ∧
    (∀ l, s.ctl.model.local? d.switch = some l → s.coils = [(l.coil, d.direction)]) ∧
    (r.reading = d.direction.value →
      exec (.filterTimerExpiry (.point d.switch)) s =
        .next ((({ s with bay := { s.bay with drive := none, report := some .completed } }).pointSet d.switch fun q =>
          { q with value := some r.reading, pending := none, completion := some s.now }).handOver d.switch)) ∧
    (r.reading = .bad →
      exec (.filterTimerExpiry (.point d.switch)) s =
        .next ((v.afterFailure .badPosition d.switch (some (d.handle, d.step))).handOver d.switch)) ∧
    (r.reading = d.direction.startEnd → d.leftStart = true →
      exec (.filterTimerExpiry (.point d.switch)) s =
        .next ((v.afterFailure .wrongEnd d.switch (some (d.handle, d.step))).handOver d.switch)) ∧
    (r.reading ≠ d.direction.value → r.reading ≠ .bad → r.reading = d.direction.startEnd → d.leftStart = false →
      exec (.filterTimerExpiry (.point d.switch)) s = .next (v.handOver d.switch)) ∧
    (r.reading ≠ d.direction.value → r.reading ≠ .bad → r.reading ≠ d.direction.startEnd →
      exec (.filterTimerExpiry (.point d.switch)) s =
        .next (({ v with bay := { v.bay with drive := some { d with leftStart := true } } }).handOver d.switch))

/-- RUN_TIME_EXPIRY and STUCK_TIMER_EXPIRY (R27, R31, R34): reached, they end the drive with TRAVEL_TIMEOUT or find the
switch stuck, and the failure is handled by R34. That they have no effect before the time, or with no drive or no stuck
timer, is the model's choice (log 2, DESIGN CHOICE). -/
def Obligations.RunAndStuckTimersFail : Prop :=
  ∀ s : State, s.working = true →
    (s.bay.drive = none → exec .runTimeExpiry s = .next s) ∧
    (∀ d, s.bay.drive = some d →
      (s.reached d.expiry = false → exec .runTimeExpiry s = .next s) ∧
      (s.reached d.expiry = true → exec .runTimeExpiry s =
        .next ((s.afterFailure .travelTimeout d.switch (some (d.handle, d.step))).handOver d.switch))) ∧
    (∀ (id : Nat) (p : LocalPoint), s.localPoint? id = some p →
      (p.stuck = none → exec (.stuckTimerExpiry id) s = .next s) ∧
      (∀ t, p.stuck = some t →
        (s.reached t = false → exec (.stuckTimerExpiry id) s = .next s) ∧
        (s.reached t = true → exec (.stuckTimerExpiry id) s =
          .next ((s.afterFailure .stuckIntermediate id none).handOver id))))

/-- CLEAR_FAULT(switch) in QUIET and RUN (R37, R175), by the switch's filtered value and its mark. -/
def Obligations.SwitchFaultIsCleared : Prop :=
  ∀ (s : State) (tag : Byte) (point : Nat), s.free → (s.ctl.mode = .quiet ∨ s.ctl.mode = .run) →
    let reply := fun status => exec (.clearFaultSwitch tag point) s = .next (s.replied 0x30 tag status .none)
    (s.ctl.model.point? point = none → reply .noSuchPoint) ∧
    (∀ d, s.ctl.model.point? point = some d → d.kind.isSwitch = false ∨ d.owner ≠ s.unit → reply .badRequest) ∧
    (s.ctl.model.isLocalSwitch point = true → ∀ p, s.localPoint? point = some p →
      (p.value ≠ some .opened → p.value ≠ some .closed → reply .notAtEnd) ∧
      (p.value = some .opened ∨ p.value = some .closed →
        (p.suspect = false → reply .ok) ∧
        (p.suspect = true → exec (.clearFaultSwitch tag point) s =
          .next (((((s.holding tag (.clearFaultSwitch point)).pointSet point fun q => { q with suspect := false }).raise
            [.suspectCleared point]).handOver point).replied 0x30 tag .ok .none))))

/-! ### The position image and the publisher (chapters 3 and 7) -/

/-- One update of a local entry (R41, R53, R109 to R111, R115): the entry takes the value and the mark and is HELD; a
changed switch value moves every zone the switch requires; a changed value or mark is one change, which advances the
state number by one and restarts the schedule, in RUN with the link ACTIVE by a bulletin of repeat 0 and hold 2 B + M;
an update that alters neither is no change. Nothing else changes. That an update with no value to an entry with none is
no change of value is the model's reading (log 16, DEDUCED). That a change during an orderly stop is still counted is
log 12. -/
def Obligations.LocalUpdateIsOneChange : Prop :=
  ∀ (s : State) (id : Nat) (p : LocalPoint) (e : PointEntry), s.localPoint? id = some p → s.entry? id = some e →
    let v := { s with image := { s.image with
      entries := s.image.entries.map fun x =>
        if x.id = id then { x with value := p.value, suspect := p.suspect, presence := .held } else x
      moves := s.image.moves.map fun m =>
        if e.value ≠ p.value ∧ e.kind.isSwitch = true ∧ m.zone ∈ s.ctl.model.required id then
          { m with time := some s.now }
        else m } }
    let published := v.image.entries.filterMap fun x =>
      if x.owner = s.unit then
        x.value.map fun y => (⟨x.id, y.code, if x.kind.isSwitch = true ∧ x.suspect = true then 1 else 0⟩ : Item)
      else none
    (e.value = p.value ∧ e.suspect = p.suspect ∨ s.pub.stateNo = none → s.handOver id = v) ∧
    (e.value ≠ p.value ∨ e.suspect ≠ p.suspect → ∀ n, s.pub.stateNo = some n →
      let w := { v with pub := { v.pub with stateNo := some (n + 1), repeatNo := 0, interval := s.params.base } }
      (s.running = false ∨ s.link.mode = .muted → s.handOver id = w) ∧
      (s.running = true → s.link.mode = .active → s.handOver id =
        ({ w with pub := { w.pub with stage := .offered (n + 1) 0 } }).offer
          (.bulletin (n + 1) 0 (2 * s.params.base + s.params.margin) published)))

/-- BULLETIN_DUE (R113): the repeat number rises by one and stays at 255, the interval becomes the lesser of 2 I and H,
and the bulletin with hold 2 I + M of the new interval is offered and awaited. That the command has no effect before the
time, or with none due, is the model's choice (log 2, DESIGN CHOICE). The items are the unit's own entries with a value,
each with its value's code and its suspect flag (R111, R180). -/
def Obligations.BulletinFallsDue : Prop :=
  ∀ s : State, s.running = true →
    (∀ t, s.pub.stage = .due t → s.reached t = false → exec .bulletinDue s = .next s) ∧
    ((∀ t, s.pub.stage ≠ .due t) → exec .bulletinDue s = .next s) ∧
    (∀ t n, s.pub.stage = .due t → s.reached t = true → s.pub.stateNo = some n →
      let r := if s.pub.repeatNo = 255 then 255 else s.pub.repeatNo + 1
      let i := min (2 * s.pub.interval) s.params.heartbeat
      exec .bulletinDue s =
        .next (({ s with pub := { s.pub with repeatNo := r, interval := i, stage := .offered n r } }).offer
          (.bulletin n r (2 * i + s.params.margin) s.pointList))) ∧
    s.pointList = (s.image.entries.filterMap fun e =>
      if e.owner = s.unit then
        e.value.map fun y => (⟨e.id, y.code, if e.kind.isSwitch = true ∧ e.suspect = true then 1 else 0⟩ : Item)
      else none) ∧
    ∀ y : PointValue, y.code = match y with
      | .opened => 1 | .closed => 2 | .travel => 3 | .bad => 4 | .absent => 5 | .present => 6 | .low => 7 | .high => 8

/-- BULLETIN from a peer of this yard revision (R45 to R50, R52): older is discarded, a withdrawal leaves the entries
alone, a repeat moves the expiry and reads no point, and a new one writes every entry of that owner, marks those it does
not carry MISSING, records the movements, and reports a peer that was not GOOD. The hold time is clamped. Of a point
carried twice the first item decides (log 28). A value fits an entry if its code is one of section 12.5 and the entry's
kind shows it (R3, R4, R47). A frame of this revision clears the sender's mismatch mark (R44). -/
def Obligations.BulletinIsTaken : Prop :=
  ∀ (s : State) (sender revision : Nat) (n : StateNo) (r : Byte) (hold : Nat) (items : List Item) (p : PeerRecord),
    s.hears sender revision → items.length ≤ 24 → s.peer? sender = some p →
    let v := s.heardFrom sender
    let clamped := if hold < 10 then 10 else if 30000 < hold then 30000 else hold
    let record := fun f : PeerRecord → PeerRecord => (v.mapPeer sender f).image.peers
    let c := Instr.bulletin sender revision n r hold items
    (∀ (b : Byte) (y : PointValue), valueOfCode b = some y ↔ y.code = b) ∧
    (∀ (k : PointKind) (y : PointValue), k.admits y = true ↔
      k.isSwitch = true ∧ y ∈ [.opened, .closed, .travel, .bad] ∨ k = .voltage ∧ y ∈ [.absent, .present, .bad] ∨
        k = .binary ∧ y ∈ [.low, .high]) ∧
    v.image.peers = (s.image.peers.map fun q => if q.unit = sender then { q with mismatch := false } else q) ∧
    (p.status = .good → 32768 ≤ (n - p.lastState).toNat → exec c s = .next v) ∧
    ((p.status = .good → (n - p.lastState).toNat < 32768) →
      (hold = 0 → exec c s = .next { v with
        image := { v.image with peers := record fun q => { q with lastState := n, lastRepeat := r, status := .withdrawn } }
        port := if p.status = .withdrawn then s.port else (s.raise [.peerWithdrawn sender]).port }) ∧
      (hold ≠ 0 → p.status = .good → n = p.lastState → exec c s = .next { v with
        image := { v.image with peers := record fun q =>
          { q with lastRepeat := r, expiry := s.now + BitVec.ofNat 32 clamped } } }) ∧
      (hold ≠ 0 → p.status ≠ .good ∨ n ≠ p.lastState →
        let value := fun e : PointEntry => (items.find? fun i => i.point = e.id).bind fun i =>
          match valueOfCode i.value with
          | some x => if e.kind.admits x = true then some (x, i.flags) else none
          | none => none
        let taken := fun e : PointEntry =>
          if e.owner = sender then
            match value e with
            | some (x, flags) =>
              { e with value := some x, suspect := e.kind.isSwitch && flags.getLsbD 0, presence := .held }
            | none => { e with presence := .missing }
          else e
        exec c s = .next { v with
          image := {
            entries := s.image.entries.map taken
            peers := record fun q =>
              { q with lastState := n, lastRepeat := r, expiry := s.now + BitVec.ofNat 32 clamped, status := .good }
            moves := s.image.moves.map fun m =>
              if ∃ e ∈ s.image.entries, e.kind.isSwitch = true ∧ (taken e).value ≠ e.value ∧
                  m.zone ∈ s.ctl.model.required e.id then
                { m with time := some s.now }
              else m }
          port := if p.status = .good then s.port else (s.raise [.peerGood sender]).port }))

/-- Frames that go no further (R44, R104, R105, R180): an echo, a frame of a sender outside 1..48, a frame in a mode
that receives none, and received bytes that fail a check of R180 (their type, their number, the body length their type
requires, with at most 24 items, the CRC), have no effect; a frame of another yard revision is reported once; a frame
that bears this unit's own number mutes the link as a duplicate, once. How an echo is told, by an attempt in progress
when the reception begins or at the frame's end, is the model's reading (log 13, DEDUCED). The duplicate mark leaves the
probe timer stopped (log 25). A frame is an echo if its reception began in an attempt, or if an attempt goes on (log
13). -/
def Obligations.FramesAreSifted : Prop :=
  (∀ s : State, s.isEcho = true ↔ s.link.rxEcho = true ∨
    ∃ last, s.link.stage = .sending last ∨ s.link.stage = .echoWait last) ∧
  (∀ (s : State) (f : Frame), s.receiving = false ∨ s.isEcho = true ∨ f.sender = 0 ∨ 48 < f.sender →
    exec (frameCommand f) s = .next s) ∧
  (∀ (s : State) (f : Frame), f.wellFormed = true → s.receiving = true → s.isEcho = false → 1 ≤ f.sender →
    f.sender ≤ 48 →
    (f.sender = s.unit →
      (s.link.dup = true → exec (frameCommand f) s = .next s) ∧
      (s.link.dup = false → ∃ t, exec (frameCommand f) s = .next t ∧ LinkMuted s t .duplicateUnit)) ∧
    (f.sender ≠ s.unit → f.revision ≠ s.ctl.model.revision → ∀ p, s.peer? f.sender = some p →
      (p.mismatch = true → exec (frameCommand f) s = .next s) ∧
      (p.mismatch = false → exec (frameCommand f) s =
        .next ((s.mapPeer f.sender fun q => { q with mismatch := true }).raise
          [.revisionMismatch f.sender f.revision])))) ∧
  (∀ (s : State) (bytes : List Byte),
    bytes.length ≠ (bytes.getD 4 0).toNat + 7 ∨ bytes.length < 7 ∨ crcGood bytes = false ∨
      (bytes.getD 0 0).toNat ∉ [0x01, 0x21, 0x22, 0x23, 0x24] →
    exec (.damagedFrame bytes) s = .next s) ∧
  (∀ (s : State) (bytes : List Byte),
    let type := (bytes.getD 0 0).toNat
    let bodyLength := (bytes.getD 4 0).toNat
    let items := (bytes.getD 10 0).toNat
    type = 0x01 ∧ (bodyLength ≠ 6 + 4 * items ∨ 24 < items) ∨ type ∈ [0x21, 0x22] ∧ bodyLength ≠ 5 ∨
      type = 0x23 ∧ bodyLength ≠ 1 ∨ type = 0x24 ∧ bodyLength ≠ 2 →
    exec (.damagedFrame bytes) s = .next s)

/-- PEER_EXPIRY (R51): a GOOD peer whose expiry is reached becomes STALE and PEER_STALE is raised; nothing else of it or of
its entries changes. That PEER_EXPIRY in any other case has no effect is the model's choice (log 2, DESIGN CHOICE).
STORED_TIME_LAPSE (R120): a completion or movement time 2^30 ms old is unset, a younger one stays (log 30, DEDUCED). -/
def Obligations.PeersExpireAndTimesLapse : Prop :=
  ∀ s : State, s.working = true →
    let young := fun t : Time => if 1073741824 ≤ (s.now - t).toNat then none else some t
    (∀ (unit : Nat) (p : PeerRecord), s.peer? unit = some p →
      (p.status ≠ .good ∨ s.reached p.expiry = false → exec (.peerExpiry unit) s = .next s) ∧
      (p.status = .good → s.reached p.expiry = true → ∃ t, exec (.peerExpiry unit) s = .next t ∧
        (∀ q, t.peer? unit = some q → q = { p with status := .stale }) ∧
        (∀ other, other ≠ unit → t.peer? other = s.peer? other) ∧
        t = { s with image := { s.image with peers := t.image.peers }, port := (s.raise [.peerStale unit]).port })) ∧
    (∀ id, exec (.storedTimeLapse (.completion id)) s =
      .next (s.pointSet id fun p => { p with completion := p.completion.bind young })) ∧
    (∀ z, exec (.storedTimeLapse (.movement z)) s =
      .next { s with image := { s.image with moves := s.image.moves.map fun m =>
        if m.zone = z then { m with time := m.time.bind young } else m } })

/-! ### Zone claims (chapter 8) -/

/-- R121: rank is a strict order, total on claims of distinct units: urgency before defer count before the lower unit. The
own rank is the active program's with the unit's number, an entry's is its frame's with the sender's; a HOLD of any rank
and an ASK of better rank block, one of worse rank does not. -/
def Obligations.RankIsATotalOrder : Prop :=
  (∀ a b : Rank, a.better b = true ↔
    b.urgency < a.urgency ∨ b.urgency = a.urgency ∧ (b.defer < a.defer ∨ b.defer = a.defer ∧ a.unit < b.unit)) ∧
  (∀ a b c : Rank, a.better b = true → b.better c = true → a.better c = true) ∧
  (∀ a b : Rank, a.better b = true → b.better a = false) ∧
  (∀ a b : Rank, a.unit ≠ b.unit → a.better b = true ∨ b.better a = true) ∧
  (∀ (s : State) (p : Program), s.seq.active = some p → s.ownRank = ⟨p.urgency, p.defer, s.unit⟩) ∧
  (∀ e : PeerClaim, e.rank = ⟨e.urgency, e.defer, e.unit⟩) ∧
  (∀ (s : State) (z : Nat), s.blocked z = true ↔ ∃ e ∈ s.peersOf z, s.reached e.expiry = false ∧
    (e.kind = .hold ∨ e.kind = .ask ∧ e.rank.better s.ownRank = true))

/-- R124 and R125: what an ASK or HOLD does to a peer claim list: it replaces its unit's live entry; else the expired
entries go, and it is added to fewer than 8, or a full list gives up its worst ASK, its earliest HOLD, or nothing. The
earliest HOLD is the one with the least time left (log 20). -/
def Obligations.PeerListPolicy : Prop :=
  ∀ (now : Time) (live : PeerClaim → Bool) (l : List PeerClaim) (new : PeerClaim), (l.map (·.unit)).Nodup →
    let out := (enterClaim now live l new).1
    let kept := l.filter live
    let asks := kept.filter fun e => e.kind = .ask
    let giveUp := fun w : PeerClaim => (kept.filter fun e => e.unit ≠ w.unit) ++ [new]
    (∀ old ∈ l, old.unit = new.unit → live old = true →
      out = l.map fun e => if e.unit = new.unit then new else e) ∧
    ((∀ e ∈ l, e.unit = new.unit → live e = false) →
      (kept.length < 8 → out = kept ++ [new]) ∧
      (8 ≤ kept.length →
        (∀ w ∈ asks, (∀ a ∈ asks, a ≠ w → a.rank.better w.rank = true) →
          (new.kind = .hold ∨ new.rank.better w.rank = true → out = giveUp w) ∧
          (new.kind = .ask → new.rank.better w.rank = false → out = kept)) ∧
        (asks = [] → new.kind = .ask → out = kept) ∧
        (∀ w ∈ kept, asks = [] → new.kind = .hold →
          (∀ a ∈ kept, a ≠ w → (w.expiry - now).toNat < (a.expiry - now).toNat ∨
            w.expiry = a.expiry ∧ a.unit < w.unit) →
          out = giveUp w)))

/-- ASK and HOLD heard from a peer (R123, R124, R129, R132 to R134, R137 to R139). Fields outside their bounds or a zone
not of the model discard the frame. Else the entry is made, its lifetime clamped, and the unit's own claim acts: IDLE
does nothing; ASKING loses its window to a HOLD or a better ASK, and a HOLD of lower urgency is asked to yield; HELD
answers an ASK with a HOLD, and a HOLD is a split claim, kept by the better rank, else lost. WAITING tests its zone
where the frame takes something from the list: an entry of the sender that was a HOLD or ranked better than what
replaces it, an expired entry, or one that a full list gives up; it then asks again if nothing blocks the zone, else it
waits on. A frame that only adds an entry, or replaces an ASK of equal or worse rank by its sender, prompts no test, and
the zone stays WAITING though nothing may block it (R132). That the test is made once a frame, on the list as the frame
leaves it, is log 19. The zones' records are the model's, each number once, which every step keeps
(StepsKeepTheTables). -/
def Obligations.AskAndHoldAreHeard : Prop :=
  ∀ (s : State) (sender revision zone urgency defer life : Nat), s.zoneInv → s.hears sender revision →
    let v := s.heardFrom sender
    let ask := Instr.ask sender revision zone urgency defer life
    let hold := Instr.hold sender revision zone urgency defer life
    ((s.zone? zone = none ∨ 3 < urgency ∨ 15 < defer) → exec ask s = .next v ∧ exec hold s = .next v) ∧
    (s.zone? zone ≠ none → urgency ≤ 3 → defer ≤ 15 →
      let entry := fun kind life => (⟨sender, kind, urgency, defer, s.now + BitVec.ofNat 32 life⟩ : PeerClaim)
      let anAsk := entry .ask (if life < 40 then 40 else if 1000 < life then 1000 else life)
      let aHold := entry .hold (if life < 600 then 600 else if 6000 < life then 6000 else life)
      let entered := fun e => v.listSet zone (enterClaim s.now (fun x => s.reached x.expiry = false) (s.peersOf zone) e).1
      (s.own zone = .idle → exec ask s = .next (entered anAsk) ∧ exec hold s = .next (entered aHold)) ∧
      (∀ second windowEnd, s.own zone = .asking second windowEnd →
        (anAsk.rank.better s.ownRank = true → exec ask s = .next ((entered anAsk).loses zone)) ∧
        (anAsk.rank.better s.ownRank = false → exec ask s = .next (entered anAsk)) ∧
        (s.ownUrgency < 2 ∨ s.ownUrgency ≤ urgency → exec hold s = .next ((entered aHold).loses zone)) ∧
        (2 ≤ s.ownUrgency → urgency < s.ownUrgency →
          exec hold s = .next (((entered aHold).loses zone).offer (.yieldRequest zone s.ownUrgency)))) ∧
      (s.own zone = .waiting →
        (2 ≤ s.ownUrgency ∧ urgency < s.ownUrgency →
          exec hold s = .next ((entered aHold).offer (.yieldRequest zone s.ownUrgency))) ∧
        (s.ownUrgency < 2 ∨ s.ownUrgency ≤ urgency → exec hold s = .next (entered aHold)) ∧
        ((entered anAsk).blocked zone = true → exec ask s = .next (entered anAsk)) ∧
        (s.blocked zone = true → ((s.peersOf zone).map (·.unit)).Nodup → (entered anAsk).blocked zone = false →
          exec ask s = .next ((entered anAsk).asks zone)) ∧
        (((s.peersOf zone).map (·.unit)).Nodup →
          let gone := fun e : PeerClaim => s.reached e.expiry = true
          let replaced := ∃ e ∈ s.peersOf zone, e.unit = sender ∧ ¬ gone e
          let prompts :=
            (∃ e ∈ s.peersOf zone, e.unit = sender ∧ ¬ gone e ∧ (e.kind = .hold ∨ e.rank.better anAsk.rank = true)) ∨
            (¬ replaced ∧ ∃ e ∈ s.peersOf zone, gone e) ∨
            (¬ replaced ∧ 8 ≤ (s.peersOf zone).length ∧
              ∃ e ∈ s.peersOf zone, e.kind = .ask ∧ anAsk.rank.better e.rank = true)
          (prompts → (entered anAsk).blocked zone = false → exec ask s = .next ((entered anAsk).asks zone)) ∧
          (¬ prompts → exec ask s = .next (entered anAsk)))) ∧
      (∀ refresh, s.own zone = .held refresh →
        exec ask s = .next ((entered anAsk).holds zone) ∧
        (s.ownRank.better aHold.rank = true → exec hold s = .next ((entered aHold).holds zone)) ∧
        (s.ownRank.better aHold.rank = false → ∀ p, s.seq.active = some p →
          (p.phase ≠ .driving → ∃ t, exec hold s = .next t ∧
            GiveBackEnds (entered aHold) t p .splitClaim ⟨zone, sender⟩) ∧
          (p.phase = .driving → p.clashOffered = true →
            exec hold s = .next ((entered aHold).withActive { p with
              pendingStop := some (p.pendingStop.getD .claimClash) })) ∧
          (p.phase = .driving → p.clashOffered = false →
            exec hold s = .next { (entered aHold).withActive { p with
                clashOffered := true, pendingStop := some (p.pendingStop.getD .claimClash) } with
              port := { (s.raise [.fault zone .claimClash]).port with
                capture := some (s.port.capture.getD
                  { kind := .claimClash, time := s.now, subject := zone, handle := p.handle, step := p.stepIndex,
                    stepState := some .driving, value := none, raw := none, zones := s.heldZones }) } }))))

/-- DROP and PEER_ENTRY_EXPIRY (R124, R126, R132): the entry goes, an expiry only once it is reached; a zone in WAITING with
no blocking entry left asks again (once a removal: log 19); every other zone, and a list that held no such entry, is left as
it is. That PEER_ENTRY_EXPIRY has no effect before the expiry is the model's choice (log 2, DESIGN CHOICE). The zones'
records are the model's, each number once, which every step keeps (StepsKeepTheTables). -/
def Obligations.RemovedEntriesFreeTheZone : Prop :=
  ∀ (s : State) (zone unit revision : Nat), s.zoneInv →
    let free := fun l : List PeerClaim =>
      ∀ e ∈ l, s.reached e.expiry = false → e.kind = .ask ∧ e.rank.better s.ownRank = false
    let after := fun (v : State) (l : List PeerClaim) (t : State) =>
      (s.own zone = .waiting → free l → t = (v.listSet zone l).asks zone) ∧
      (s.own zone ≠ .waiting ∨ ¬ free l → t = v.listSet zone l)
    (s.hears unit revision →
      let v := s.heardFrom unit
      ((∀ e ∈ s.peersOf zone, e.unit ≠ unit) → exec (.drop unit revision zone) s = .next v) ∧
      ((∃ e ∈ s.peersOf zone, e.unit = unit) → ∃ t, exec (.drop unit revision zone) s = .next t ∧
        after v ((s.peersOf zone).filter fun e => e.unit ≠ unit) t)) ∧
    (s.receiving = true →
      ((∀ e ∈ s.peersOf zone, e.unit = unit → s.reached e.expiry = false) →
        exec (.peerEntryExpiry zone unit) s = .next s) ∧
      ((∃ e ∈ s.peersOf zone, e.unit = unit ∧ s.reached e.expiry = true) →
        ∃ t, exec (.peerEntryExpiry zone unit) s = .next t ∧
          after s ((s.peersOf zone).filter fun e => e.unit ≠ unit ∨ s.reached e.expiry = false) t))

/-- YIELD_REQUEST (R135, R161): it acts only on a zone HELD, from a higher urgency than the active program's; then the
zones are given back at once, or in DRIVING the pending-yield flag is set, which a further request leaves as it is. The
flag keeps the zone and the unit of the request that set it (log 17). -/
def Obligations.YieldRequestIsHeard : Prop :=
  ∀ (s : State) (sender revision zone urgency : Nat), s.hears sender revision →
    let v := s.heardFrom sender
    let c := Instr.yieldRequest sender revision zone urgency
    ((3 < urgency ∨ (s.own zone).isHeld = false ∨ urgency ≤ s.ownUrgency) → exec c s = .next v) ∧
    (∀ p, urgency ≤ 3 → (s.own zone).isHeld = true → s.seq.active = some p → p.urgency < urgency →
      (p.phase = .driving → exec c s =
        .next (v.withActive { p with pendingYield := some (p.pendingYield.getD ⟨zone, sender⟩) })) ∧
      (p.phase ≠ .driving → ∃ t, exec c s = .next t ∧ GiveBackEnds v t p .yieldRequest ⟨zone, sender⟩))

/-- The claim controller's times (R128, R130, R133, R149). At the second-ask time a zone still ASKING offers a second
ASK; at the window end it becomes WAITING, the defer count raised, if a live entry blocks, else HELD, with a HOLD
offered, and the next zone of the job is asked for or the program goes to GUARD; at the refresh time a zone HELD offers
a HOLD. That none of them has an effect before its time is the model's choice (log 2, DESIGN CHOICE). The own urgency
and defer count are the active program's (R121). -/
def Obligations.ClaimTimersAct : Prop :=
  ∀ (s : State) (zone : Nat), s.running = true →
    (∀ p, s.seq.active = some p → s.ownUrgency = p.urgency ∧ s.ownDefer = p.defer) ∧
    (∀ t windowEnd, s.own zone = .asking (some t) windowEnd →
      (s.reached t = false → exec (.secondAskTime zone) s = .next s) ∧
      (s.reached t = true → exec (.secondAskTime zone) s =
        .next ((s.ownSet zone (.asking none windowEnd)).offer (s.anAsk zone)))) ∧
    (∀ second windowEnd, s.own zone = .asking second windowEnd →
      (s.reached windowEnd = false → exec (.windowEnd zone) s = .next s) ∧
      (s.reached windowEnd = true →
        ((∃ e ∈ s.peersOf zone, s.reached e.expiry = false ∧
            (e.kind = .hold ∨ e.rank.better s.ownRank = true)) →
          exec (.windowEnd zone) s = .next (s.loses zone)) ∧
        ((∀ e ∈ s.peersOf zone, s.reached e.expiry = false → e.kind = .ask ∧ e.rank.better s.ownRank = false) →
          (∀ before next after, s.claims.job = some (before ++ next :: after) →
            (∀ z ∈ before, z = zone ∨ (s.own z).isHeld = true) → next ≠ zone → (s.own next).isHeld = false →
            exec (.windowEnd zone) s = .next ((s.holds zone).asks next)) ∧
          (∀ p job, s.seq.active = some p → s.claims.job = some job →
            (∀ z ∈ job, z = zone ∨ (s.own z).isHeld = true) →
            exec (.windowEnd zone) s = exec .guardReleaseTime ((s.holds zone).atGuard p))))) ∧
    (∀ t, s.own zone = .held t →
      (s.reached t = false → exec (.refreshTime zone) s = .next s) ∧
      (s.reached t = true → exec (.refreshTime zone) s = .next (s.holds zone)))

/-! ### The yard link (chapter 6) -/

/-- R92 and R93: an offered frame fills its slot at the tail of the list or replaces the frame waiting there in its
place; while the transmitter is IDLE the head is taken in hand for its first attempt. Outside RUN, from an orderly stop
on, or with the link MUTED it is discarded. That the head is taken in hand in the same act is log 11. The slots are the
bulletin's one and one for each zone, shared by its frames (R92). -/
def Obligations.OfferTakesItsSlot : Prop :=
  ∀ (s : State) (b : FrameBody),
    let f : Frame := ⟨s.unit, s.ctl.model.revision, b⟩
    (b.slot = match b with
      | .bulletin _ _ _ _ => 0 | .ask z _ _ _ => z | .hold z _ _ _ => z | .drop z => z | .yieldRequest z _ => z) ∧
    ((s.running = false ∨ s.link.mode = .muted) → s.offer b = s) ∧
    (s.running = true → s.link.mode = .active → ∃ l : List Frame,
      ((∀ g ∈ s.link.txList, g.body.slot ≠ b.slot) → l = s.link.txList ++ [f]) ∧
      (∀ before g after, s.link.txList = before ++ g :: after → g.body.slot = b.slot →
        (∀ x ∈ before ++ after, x.body.slot ≠ b.slot) → l = before ++ f :: after) ∧
      (s.link.stage ≠ .idle → s.offer b = { s with link := { s.link with txList := l } }) ∧
      (s.link.stage = .idle → ∀ head rest, l = head :: rest →
        s.offer b = { s with link := { s.link with
          txList := rest, inHand := some ⟨head, 0, true, s.micros⟩, stage := .deferring s.spellNow } }))

/-- MEDIUM_BUSY, MEDIUM_IDLE and IDLE_SPELL_COMPLETE (R94, R95): a turn to busy ends the spell and a turn to idle starts it
afresh; an attempt begins once 10 µs, or after n unsuccessful attempts the back-off, have been idle. How long the frame then
takes to send is left open (log 7). The model's own: IDLE_SPELL_COMPLETE has no effect before the spell is complete (log 2,
DESIGN CHOICE) and begins the attempt after it however late (log 35, DESIGN CHOICE), and a turn to busy marks the reception
that it begins as an echo or not (log 13, DEDUCED). -/
def Obligations.SpellsOfIdleMedium : Prop :=
  (∀ s : State,
    (s.link.mediumBusy = true → exec .mediumBusy s = .next s) ∧ (s.link.mediumBusy = false → exec .mediumIdle s = .next s) ∧
    (∀ since, s.link.stage = .deferring since →
      (s.link.mediumBusy = false → exec .mediumBusy s =
        .next { s with link := { s.link with mediumBusy := true, rxEcho := false, stage := .deferring none } }) ∧
      (s.link.mediumBusy = true → exec .mediumIdle s =
        .next { s with link := { s.link with mediumBusy := false, stage := .deferring (some s.micros) } })) ∧
    ((∀ since, s.link.stage ≠ .deferring since) →
      (s.link.mediumBusy = false → exec .mediumBusy s =
        .next { s with link := { s.link with mediumBusy := true, rxEcho := s.link.stage.attempting } }) ∧
      (s.link.mediumBusy = true → exec .mediumIdle s = .next { s with link := { s.link with mediumBusy := false } }))) ∧
  (∀ (s : State) (h : InHand), s.supplied = true → s.ctl.mode = .run → s.link.inHand = some h →
    let needed := if h.count = 0 then 10 else ((3 * s.unit + 5 * h.count) % 16 + 1) * 50
    (1 ≤ h.count → 50 ≤ needed ∧ needed ≤ 800) ∧
    (s.link.stage = .deferring none → exec .idleSpellComplete s = .next s) ∧
    (∀ since, s.link.stage = .deferring (some since) →
      (s.micros < since + needed → exec .idleSpellComplete s = .next s) ∧
      (since + needed ≤ s.micros → exec .idleSpellComplete s =
        .next { s with link := { s.link with stage := .sending (s.micros + Config.sendTimeUs h.frame.length) } })))

/-- ECHO_MATCHED (R97, R103, R112, R117): the frame leaves the controller, and with the link ACTIVE the next is taken in
hand. The publisher is told of a bulletin: the awaited one sets the next due time I after the match, any other is
disregarded. A SENT probe makes the link ACTIVE, raises LINK_RESTORED, and the schedule goes on, or, if the state number
has advanced, restarts with a bulletin of the present state. Without a whole echo the command has no effect (log 2), and
later than 200 µs after the last byte it still counts while no timeout has been taken (log 35). The next frame is taken
in hand in the same act (log 11). -/
def Obligations.MatchedEchoEndsTheAttempt : Prop :=
  ∀ (s : State) (h : InHand), s.running = true → s.link.inHand = some h →
    let v := { s with link := { s.link with inHand := none, stage := .idle } }
    let next := fun x : State => match x.link.txList with
      | [] => x
      | f :: rest => { x with link := { x.link with
          txList := rest, inHand := some ⟨f, 0, true, s.micros⟩, stage := .deferring s.spellNow } }
    ((∀ last, s.link.stage ≠ .echoWait last) → exec .echoMatched s = .next s) ∧
    (∀ last, s.link.stage = .echoWait last →
      (s.link.mode = .active →
        ((∀ n r hold items, h.frame.body ≠ .bulletin n r hold items) → exec .echoMatched s = .next (next v)) ∧
        (∀ n r hold items, h.frame.body = .bulletin n r hold items →
          (s.pub.stage = .offered n r → exec .echoMatched s =
            .next (next { v with pub := { s.pub with stage := .due (s.now + BitVec.ofNat 32 s.pub.interval) } })) ∧
          (s.pub.stage ≠ .offered n r → exec .echoMatched s = .next (next v)))) ∧
      (s.link.mode = .muted → ∀ n r hold items, h.frame.body = .bulletin n r hold items →
        let u := ({ v with link := { v.link with mode := .active, probeTimer := none } }).raise [.linkRestored s.unit]
        (s.pub.stateNo = some n → exec .echoMatched s =
          .next { u with pub := { s.pub with stage := .due (s.now + BitVec.ofNat 32 s.params.base) } }) ∧
        (∀ m, s.pub.stateNo = some m → m ≠ n → exec .echoMatched s =
          .next (({ u with pub :=
            { s.pub with repeatNo := 0, interval := s.params.base, stage := .offered m 0 } }).offer
              (.bulletin m 0 (2 * s.params.base + s.params.margin) s.pointList)))))

/-- ECHO_MISMATCH and ECHO_TIMEOUT (R96 to R99, R103): the count rises, a collision clears the all-lost flag, and the
frame defers again; after the eighth attempt an ordinary frame mutes the link, ECHO_LOSS if all eight were LOST and else
LINK_CONTENTION; a probe leaves it MUTED, in AUTO with the probe timer restarted, in ON_CLEAR muted again by its fault.
A timeout counts 200 µs after the last byte, a mismatch in an attempt; else neither has any effect (log 2). Late or
early, the first command taken acts (log 35), and the duplicate mark keeps the probe timer stopped (log 25). That a
probe dropped in ON_CLEAR leaves the publisher's stage STOPPED, as R99 does, where R117 has a new request find it still
OFFERED, is the model's reading (log 39, DEDUCED). -/
def Obligations.FailedAttemptsCountToEight : Prop :=
  ∀ (s : State) (h : InHand) (lost : Bool), s.running = true → s.link.inHand = some h →
    let c := if lost then Instr.echoTimeout else Instr.echoMismatch
    let ended := if lost then (∃ last, s.link.stage = .echoWait last ∧ last + 200 ≤ s.micros)
      else (∃ last, s.link.stage = .sending last ∨ s.link.stage = .echoWait last)
    let allLost := h.allLost && lost
    let fault := if allLost then FaultKind.echoLoss else .linkContention
    (¬ ended → exec c s = .next s) ∧
    (ended →
      (h.count < 7 → exec c s = .next { s with link := { s.link with
        inHand := some { h with count := h.count + 1, allLost := allLost }, stage := .deferring s.spellNow } }) ∧
      (7 ≤ h.count →
        (s.link.mode = .active ∨ s.params.recovery = .onClear → ∃ t, exec c s = .next t ∧ LinkMuted s t fault) ∧
        (s.link.mode = .muted → s.params.recovery = .auto → exec c s = .next { s with link := { s.link with
          inHand := none, stage := .idle, probeTimer := some (s.now + 1000) } })))

/-- PROBE_TIMER_EXPIRY (R101, R117) and CLEAR_FAULT(link) in RUN (R102, R176): a probe of the present state, repeat 0 and hold
2 B + M is formed, awaited and in hand at once, unless one is in hand or the link is ACTIVE; the clearing clears the duplicate
mark first and is answered OK in every case. That the timer's command has no effect before its time is the model's choice
(log 2, DESIGN CHOICE). -/
def Obligations.ProbesAreStarted : Prop :=
  (∀ s : State, s.running = true → s.linkInv →
    (s.link.probeTimer = none ∨ s.link.inHand ≠ none ∨ s.link.mode = .active → exec .probeTimerExpiry s = .next s) ∧
    (∀ t, s.link.probeTimer = some t → s.link.mode = .muted → s.link.inHand = none →
      (s.reached t = false → exec .probeTimerExpiry s = .next s) ∧
      (s.reached t = true → exec .probeTimerExpiry s = .next s.withProbe))) ∧
  (∀ (s : State) (tag : Byte), s.free → s.ctl.mode = .run → s.linkInv →
    (s.link.mode = .active ∨ s.link.inHand ≠ none →
      exec (.clearFaultLink tag) s = .next (s.replied 0x31 tag .ok .none)) ∧
    (s.link.mode = .muted → s.link.inHand = none →
      exec (.clearFaultLink tag) s =
        .next (({ s with link := { s.link with dup := false } }).withProbe.replied 0x31 tag .ok .none)))

/-- R119: a deadline is reached when the clock less the deadline, modulo 2^32, is below 2^31; so it is in the true order of
times less than 2^31 ms apart; and the clock's reading is the count of milliseconds modulo 2^32 (log 1). -/
def Obligations.ClockComparesAcrossTheWrap : Prop :=
  (∀ (s : State) (d : Time), s.now = BitVec.ofNat 32 (s.micros / 1000) ∧
    (s.reached d = true ↔ (s.now - d).toNat < 2147483648)) ∧
  (∀ a b : Nat, b ≤ a → a - b < 2147483648 →
    atOrAfter (BitVec.ofNat 32 a) (BitVec.ofNat 32 b) = true ∧
    (b < a → atOrAfter (BitVec.ofNat 32 b) (BitVec.ofNat 32 a) = false))

/-! ### Frames as bytes (chapter 12) -/

/-- The bytes of a frame whose fields fit are read back as the same frame, every field at every value (section 12.2,
R179, R180). The CRC of received bytes is good exactly when the last two, most significant first, are the CRC-16 of
those before them (R179). That the command DAMAGED_FRAME of such bytes acts as the frame's own command is the model's
choice (log 22, DESIGN CHOICE). -/
def Obligations.FramesReadBackAsSent : Prop :=
  (∀ f : Frame, f.wellFormed = true → parseFrame (frameBytes f) = some f) ∧
  (∀ (f : Frame) (s : State), f.wellFormed = true → exec (.damagedFrame (frameBytes f)) s = exec (frameCommand f) s) ∧
  (∀ bytes : List Byte, crcGood bytes = true ↔ 2 ≤ bytes.length ∧
    256 * (bytes.getD (bytes.length - 2) 0).toNat + (bytes.getD (bytes.length - 1) 0).toNat =
      (crc16 (bytes.take (bytes.length - 2))).toNat)

/-! ### Invariants -/

/-- Every step keeps the form of the store and the bounds of the tables, lists and queues (R5, R10, R43, R92, R124, R170). -/
def Obligations.StepsKeepTheTables : Prop :=
  ∀ s t : State, s.tablesInv → step s = .next t → t.tablesInv

/-- Every step keeps the unit's work together: the modes, the request in hand, the programs, the drive and the claims agree
with one another, and so does the transmitter (R10, R13, R16, R28, R39, R92, R93, R127, R145 to R148, R152, R154, R165,
R166). -/
def Obligations.StepsKeepTheWorkTogether : Prop :=
  ∀ s t : State, s.workInv → step s = .next t → t.workInv

/-- The machine right after reset has both invariants. -/
def Obligations.ResetHasTheInvariants : Prop := State.reset.tablesInv ∧ State.reset.workInv

/-- A coil is energised only on a permit (R28, R90, R152). Where a command leaves a drive that was not there before, the
active program's step in hand is in DRIVING on that switch in that direction, the evaluation of that step permits the
move on the image as it stands, its guard is satisfied, and the unit holds every zone of the program. A run of several
request records is several requests, each a command of its own here. -/
def Obligations.CoilsAreEnergisedOnlyOnAPermit : Prop :=
  ∀ (c : Instr) (s t : State) (d : DriveRecord), s.workInv → exec c s = .next t →
    (∀ bytes, c ≠ .recordGapTimeout bytes) → s.bay.drive = none → t.bay.drive = some d →
    t.ctl.mode = .run ∧ t.supplied = true ∧ t.evaluate d.switch d.direction = .permit false ∧
    (∀ x ∈ t.guardTimes d.switch, t.reached x = true) ∧
    ∃ p, t.seq.active = some p ∧ p.phase = .driving ∧ p.handle = d.handle ∧ p.stepIndex = d.step ∧
      p.steps[p.stepIndex - 1]? = some ⟨d.switch, d.direction⟩ ∧ ∀ z ∈ p.zones, (t.own z).isHeld = true
end

