-- ==== Sys2Proof/Laws/State.lean ====
section
/-! SUPPORT. State's updates, field by field: what each one writes and leaves, true by unfolding. -/
namespace Sys2Proof.Machine

@[simp] theorem State.setMicros_micros (s : State) (x : Nat) : (s.setMicros x).micros = x := rfl
@[simp] theorem State.setMicros_supplied (s : State) (x : Nat) : (s.setMicros x).supplied = s.supplied := rfl
@[simp] theorem State.setMicros_ctl (s : State) (x : Nat) : (s.setMicros x).ctl = s.ctl := rfl
@[simp] theorem State.setMicros_bay (s : State) (x : Nat) : (s.setMicros x).bay = s.bay := rfl
@[simp] theorem State.setMicros_image (s : State) (x : Nat) : (s.setMicros x).image = s.image := rfl
@[simp] theorem State.setMicros_claims (s : State) (x : Nat) : (s.setMicros x).claims = s.claims := rfl
@[simp] theorem State.setMicros_seq (s : State) (x : Nat) : (s.setMicros x).seq = s.seq := rfl
@[simp] theorem State.setMicros_pub (s : State) (x : Nat) : (s.setMicros x).pub = s.pub := rfl
@[simp] theorem State.setMicros_link (s : State) (x : Nat) : (s.setMicros x).link = s.link := rfl
@[simp] theorem State.setMicros_port (s : State) (x : Nat) : (s.setMicros x).port = s.port := rfl
@[simp] theorem State.setMicros_freeCount (s : State) (x : Nat) : (s.setMicros x).freeCount = s.freeCount := rfl
@[simp] theorem State.setMicros_pending (s : State) (x : Nat) : (s.setMicros x).pending = s.pending := rfl

@[simp] theorem State.setSupplied_micros (s : State) (x : Bool) : (s.setSupplied x).micros = s.micros := rfl
@[simp] theorem State.setSupplied_supplied (s : State) (x : Bool) : (s.setSupplied x).supplied = x := rfl
@[simp] theorem State.setSupplied_ctl (s : State) (x : Bool) : (s.setSupplied x).ctl = s.ctl := rfl
@[simp] theorem State.setSupplied_bay (s : State) (x : Bool) : (s.setSupplied x).bay = s.bay := rfl
@[simp] theorem State.setSupplied_image (s : State) (x : Bool) : (s.setSupplied x).image = s.image := rfl
@[simp] theorem State.setSupplied_claims (s : State) (x : Bool) : (s.setSupplied x).claims = s.claims := rfl
@[simp] theorem State.setSupplied_seq (s : State) (x : Bool) : (s.setSupplied x).seq = s.seq := rfl
@[simp] theorem State.setSupplied_pub (s : State) (x : Bool) : (s.setSupplied x).pub = s.pub := rfl
@[simp] theorem State.setSupplied_link (s : State) (x : Bool) : (s.setSupplied x).link = s.link := rfl
@[simp] theorem State.setSupplied_port (s : State) (x : Bool) : (s.setSupplied x).port = s.port := rfl
@[simp] theorem State.setSupplied_freeCount (s : State) (x : Bool) : (s.setSupplied x).freeCount = s.freeCount := rfl
@[simp] theorem State.setSupplied_pending (s : State) (x : Bool) : (s.setSupplied x).pending = s.pending := rfl

@[simp] theorem State.setCtl_micros (s : State) (x : StartControl) : (s.setCtl x).micros = s.micros := rfl
@[simp] theorem State.setCtl_supplied (s : State) (x : StartControl) : (s.setCtl x).supplied = s.supplied := rfl
@[simp] theorem State.setCtl_ctl (s : State) (x : StartControl) : (s.setCtl x).ctl = x := rfl
@[simp] theorem State.setCtl_bay (s : State) (x : StartControl) : (s.setCtl x).bay = s.bay := rfl
@[simp] theorem State.setCtl_image (s : State) (x : StartControl) : (s.setCtl x).image = s.image := rfl
@[simp] theorem State.setCtl_claims (s : State) (x : StartControl) : (s.setCtl x).claims = s.claims := rfl
@[simp] theorem State.setCtl_seq (s : State) (x : StartControl) : (s.setCtl x).seq = s.seq := rfl
@[simp] theorem State.setCtl_pub (s : State) (x : StartControl) : (s.setCtl x).pub = s.pub := rfl
@[simp] theorem State.setCtl_link (s : State) (x : StartControl) : (s.setCtl x).link = s.link := rfl
@[simp] theorem State.setCtl_port (s : State) (x : StartControl) : (s.setCtl x).port = s.port := rfl
@[simp] theorem State.setCtl_freeCount (s : State) (x : StartControl) : (s.setCtl x).freeCount = s.freeCount := rfl
@[simp] theorem State.setCtl_pending (s : State) (x : StartControl) : (s.setCtl x).pending = s.pending := rfl

@[simp] theorem State.setBay_micros (s : State) (x : BayIO) : (s.setBay x).micros = s.micros := rfl
@[simp] theorem State.setBay_supplied (s : State) (x : BayIO) : (s.setBay x).supplied = s.supplied := rfl
@[simp] theorem State.setBay_ctl (s : State) (x : BayIO) : (s.setBay x).ctl = s.ctl := rfl
@[simp] theorem State.setBay_bay (s : State) (x : BayIO) : (s.setBay x).bay = x := rfl
@[simp] theorem State.setBay_image (s : State) (x : BayIO) : (s.setBay x).image = s.image := rfl
@[simp] theorem State.setBay_claims (s : State) (x : BayIO) : (s.setBay x).claims = s.claims := rfl
@[simp] theorem State.setBay_seq (s : State) (x : BayIO) : (s.setBay x).seq = s.seq := rfl
@[simp] theorem State.setBay_pub (s : State) (x : BayIO) : (s.setBay x).pub = s.pub := rfl
@[simp] theorem State.setBay_link (s : State) (x : BayIO) : (s.setBay x).link = s.link := rfl
@[simp] theorem State.setBay_port (s : State) (x : BayIO) : (s.setBay x).port = s.port := rfl
@[simp] theorem State.setBay_freeCount (s : State) (x : BayIO) : (s.setBay x).freeCount = s.freeCount := rfl
@[simp] theorem State.setBay_pending (s : State) (x : BayIO) : (s.setBay x).pending = s.pending := rfl

@[simp] theorem State.setImage_micros (s : State) (x : Image) : (s.setImage x).micros = s.micros := rfl
@[simp] theorem State.setImage_supplied (s : State) (x : Image) : (s.setImage x).supplied = s.supplied := rfl
@[simp] theorem State.setImage_ctl (s : State) (x : Image) : (s.setImage x).ctl = s.ctl := rfl
@[simp] theorem State.setImage_bay (s : State) (x : Image) : (s.setImage x).bay = s.bay := rfl
@[simp] theorem State.setImage_image (s : State) (x : Image) : (s.setImage x).image = x := rfl
@[simp] theorem State.setImage_claims (s : State) (x : Image) : (s.setImage x).claims = s.claims := rfl
@[simp] theorem State.setImage_seq (s : State) (x : Image) : (s.setImage x).seq = s.seq := rfl
@[simp] theorem State.setImage_pub (s : State) (x : Image) : (s.setImage x).pub = s.pub := rfl
@[simp] theorem State.setImage_link (s : State) (x : Image) : (s.setImage x).link = s.link := rfl
@[simp] theorem State.setImage_port (s : State) (x : Image) : (s.setImage x).port = s.port := rfl
@[simp] theorem State.setImage_freeCount (s : State) (x : Image) : (s.setImage x).freeCount = s.freeCount := rfl
@[simp] theorem State.setImage_pending (s : State) (x : Image) : (s.setImage x).pending = s.pending := rfl

@[simp] theorem State.setClaims_micros (s : State) (x : Claims) : (s.setClaims x).micros = s.micros := rfl
@[simp] theorem State.setClaims_supplied (s : State) (x : Claims) : (s.setClaims x).supplied = s.supplied := rfl
@[simp] theorem State.setClaims_ctl (s : State) (x : Claims) : (s.setClaims x).ctl = s.ctl := rfl
@[simp] theorem State.setClaims_bay (s : State) (x : Claims) : (s.setClaims x).bay = s.bay := rfl
@[simp] theorem State.setClaims_image (s : State) (x : Claims) : (s.setClaims x).image = s.image := rfl
@[simp] theorem State.setClaims_claims (s : State) (x : Claims) : (s.setClaims x).claims = x := rfl
@[simp] theorem State.setClaims_seq (s : State) (x : Claims) : (s.setClaims x).seq = s.seq := rfl
@[simp] theorem State.setClaims_pub (s : State) (x : Claims) : (s.setClaims x).pub = s.pub := rfl
@[simp] theorem State.setClaims_link (s : State) (x : Claims) : (s.setClaims x).link = s.link := rfl
@[simp] theorem State.setClaims_port (s : State) (x : Claims) : (s.setClaims x).port = s.port := rfl
@[simp] theorem State.setClaims_freeCount (s : State) (x : Claims) : (s.setClaims x).freeCount = s.freeCount := rfl
@[simp] theorem State.setClaims_pending (s : State) (x : Claims) : (s.setClaims x).pending = s.pending := rfl

@[simp] theorem State.setSeq_micros (s : State) (x : Sequencer) : (s.setSeq x).micros = s.micros := rfl
@[simp] theorem State.setSeq_supplied (s : State) (x : Sequencer) : (s.setSeq x).supplied = s.supplied := rfl
@[simp] theorem State.setSeq_ctl (s : State) (x : Sequencer) : (s.setSeq x).ctl = s.ctl := rfl
@[simp] theorem State.setSeq_bay (s : State) (x : Sequencer) : (s.setSeq x).bay = s.bay := rfl
@[simp] theorem State.setSeq_image (s : State) (x : Sequencer) : (s.setSeq x).image = s.image := rfl
@[simp] theorem State.setSeq_claims (s : State) (x : Sequencer) : (s.setSeq x).claims = s.claims := rfl
@[simp] theorem State.setSeq_seq (s : State) (x : Sequencer) : (s.setSeq x).seq = x := rfl
@[simp] theorem State.setSeq_pub (s : State) (x : Sequencer) : (s.setSeq x).pub = s.pub := rfl
@[simp] theorem State.setSeq_link (s : State) (x : Sequencer) : (s.setSeq x).link = s.link := rfl
@[simp] theorem State.setSeq_port (s : State) (x : Sequencer) : (s.setSeq x).port = s.port := rfl
@[simp] theorem State.setSeq_freeCount (s : State) (x : Sequencer) : (s.setSeq x).freeCount = s.freeCount := rfl
@[simp] theorem State.setSeq_pending (s : State) (x : Sequencer) : (s.setSeq x).pending = s.pending := rfl

@[simp] theorem State.setPub_micros (s : State) (x : Publisher) : (s.setPub x).micros = s.micros := rfl
@[simp] theorem State.setPub_supplied (s : State) (x : Publisher) : (s.setPub x).supplied = s.supplied := rfl
@[simp] theorem State.setPub_ctl (s : State) (x : Publisher) : (s.setPub x).ctl = s.ctl := rfl
@[simp] theorem State.setPub_bay (s : State) (x : Publisher) : (s.setPub x).bay = s.bay := rfl
@[simp] theorem State.setPub_image (s : State) (x : Publisher) : (s.setPub x).image = s.image := rfl
@[simp] theorem State.setPub_claims (s : State) (x : Publisher) : (s.setPub x).claims = s.claims := rfl
@[simp] theorem State.setPub_seq (s : State) (x : Publisher) : (s.setPub x).seq = s.seq := rfl
@[simp] theorem State.setPub_pub (s : State) (x : Publisher) : (s.setPub x).pub = x := rfl
@[simp] theorem State.setPub_link (s : State) (x : Publisher) : (s.setPub x).link = s.link := rfl
@[simp] theorem State.setPub_port (s : State) (x : Publisher) : (s.setPub x).port = s.port := rfl
@[simp] theorem State.setPub_freeCount (s : State) (x : Publisher) : (s.setPub x).freeCount = s.freeCount := rfl
@[simp] theorem State.setPub_pending (s : State) (x : Publisher) : (s.setPub x).pending = s.pending := rfl

@[simp] theorem State.setLink_micros (s : State) (x : Link) : (s.setLink x).micros = s.micros := rfl
@[simp] theorem State.setLink_supplied (s : State) (x : Link) : (s.setLink x).supplied = s.supplied := rfl
@[simp] theorem State.setLink_ctl (s : State) (x : Link) : (s.setLink x).ctl = s.ctl := rfl
@[simp] theorem State.setLink_bay (s : State) (x : Link) : (s.setLink x).bay = s.bay := rfl
@[simp] theorem State.setLink_image (s : State) (x : Link) : (s.setLink x).image = s.image := rfl
@[simp] theorem State.setLink_claims (s : State) (x : Link) : (s.setLink x).claims = s.claims := rfl
@[simp] theorem State.setLink_seq (s : State) (x : Link) : (s.setLink x).seq = s.seq := rfl
@[simp] theorem State.setLink_pub (s : State) (x : Link) : (s.setLink x).pub = s.pub := rfl
@[simp] theorem State.setLink_link (s : State) (x : Link) : (s.setLink x).link = x := rfl
@[simp] theorem State.setLink_port (s : State) (x : Link) : (s.setLink x).port = s.port := rfl
@[simp] theorem State.setLink_freeCount (s : State) (x : Link) : (s.setLink x).freeCount = s.freeCount := rfl
@[simp] theorem State.setLink_pending (s : State) (x : Link) : (s.setLink x).pending = s.pending := rfl

@[simp] theorem State.setPort_micros (s : State) (x : Port) : (s.setPort x).micros = s.micros := rfl
@[simp] theorem State.setPort_supplied (s : State) (x : Port) : (s.setPort x).supplied = s.supplied := rfl
@[simp] theorem State.setPort_ctl (s : State) (x : Port) : (s.setPort x).ctl = s.ctl := rfl
@[simp] theorem State.setPort_bay (s : State) (x : Port) : (s.setPort x).bay = s.bay := rfl
@[simp] theorem State.setPort_image (s : State) (x : Port) : (s.setPort x).image = s.image := rfl
@[simp] theorem State.setPort_claims (s : State) (x : Port) : (s.setPort x).claims = s.claims := rfl
@[simp] theorem State.setPort_seq (s : State) (x : Port) : (s.setPort x).seq = s.seq := rfl
@[simp] theorem State.setPort_pub (s : State) (x : Port) : (s.setPort x).pub = s.pub := rfl
@[simp] theorem State.setPort_link (s : State) (x : Port) : (s.setPort x).link = s.link := rfl
@[simp] theorem State.setPort_port (s : State) (x : Port) : (s.setPort x).port = x := rfl
@[simp] theorem State.setPort_freeCount (s : State) (x : Port) : (s.setPort x).freeCount = s.freeCount := rfl
@[simp] theorem State.setPort_pending (s : State) (x : Port) : (s.setPort x).pending = s.pending := rfl

@[simp] theorem State.setFreeCount_micros (s : State) (x : Nat) : (s.setFreeCount x).micros = s.micros := rfl
@[simp] theorem State.setFreeCount_supplied (s : State) (x : Nat) : (s.setFreeCount x).supplied = s.supplied := rfl
@[simp] theorem State.setFreeCount_ctl (s : State) (x : Nat) : (s.setFreeCount x).ctl = s.ctl := rfl
@[simp] theorem State.setFreeCount_bay (s : State) (x : Nat) : (s.setFreeCount x).bay = s.bay := rfl
@[simp] theorem State.setFreeCount_image (s : State) (x : Nat) : (s.setFreeCount x).image = s.image := rfl
@[simp] theorem State.setFreeCount_claims (s : State) (x : Nat) : (s.setFreeCount x).claims = s.claims := rfl
@[simp] theorem State.setFreeCount_seq (s : State) (x : Nat) : (s.setFreeCount x).seq = s.seq := rfl
@[simp] theorem State.setFreeCount_pub (s : State) (x : Nat) : (s.setFreeCount x).pub = s.pub := rfl
@[simp] theorem State.setFreeCount_link (s : State) (x : Nat) : (s.setFreeCount x).link = s.link := rfl
@[simp] theorem State.setFreeCount_port (s : State) (x : Nat) : (s.setFreeCount x).port = s.port := rfl
@[simp] theorem State.setFreeCount_freeCount (s : State) (x : Nat) : (s.setFreeCount x).freeCount = x := rfl
@[simp] theorem State.setFreeCount_pending (s : State) (x : Nat) : (s.setFreeCount x).pending = s.pending := rfl

@[simp] theorem State.setPending_micros (s : State) (x : List Instr) : (s.setPending x).micros = s.micros := rfl
@[simp] theorem State.setPending_supplied (s : State) (x : List Instr) : (s.setPending x).supplied = s.supplied := rfl
@[simp] theorem State.setPending_ctl (s : State) (x : List Instr) : (s.setPending x).ctl = s.ctl := rfl
@[simp] theorem State.setPending_bay (s : State) (x : List Instr) : (s.setPending x).bay = s.bay := rfl
@[simp] theorem State.setPending_image (s : State) (x : List Instr) : (s.setPending x).image = s.image := rfl
@[simp] theorem State.setPending_claims (s : State) (x : List Instr) : (s.setPending x).claims = s.claims := rfl
@[simp] theorem State.setPending_seq (s : State) (x : List Instr) : (s.setPending x).seq = s.seq := rfl
@[simp] theorem State.setPending_pub (s : State) (x : List Instr) : (s.setPending x).pub = s.pub := rfl
@[simp] theorem State.setPending_link (s : State) (x : List Instr) : (s.setPending x).link = s.link := rfl
@[simp] theorem State.setPending_port (s : State) (x : List Instr) : (s.setPending x).port = s.port := rfl
@[simp] theorem State.setPending_freeCount (s : State) (x : List Instr) : (s.setPending x).freeCount = s.freeCount := rfl
@[simp] theorem State.setPending_pending (s : State) (x : List Instr) : (s.setPending x).pending = x := rfl

end Sys2Proof.Machine
end

