-- ==== Sys2Proof/Laws/Frames.lean ====
section
/-! SUPPORT. The blocks that each operation of the machine leaves as they are: transmission, image, bay, claims and programs.
One lemma an operation, its conjuncts simp lemmas. -/
namespace Sys2Proof.Machine

@[simp] theorem State.mapPoint_frame (s : State) (id : Nat) (f : LocalPoint → LocalPoint) :
    (s.mapPoint id f).micros = s.micros ∧ (s.mapPoint id f).supplied = s.supplied ∧ (s.mapPoint id f).ctl = s.ctl ∧
    (s.mapPoint id f).image = s.image ∧ (s.mapPoint id f).claims = s.claims ∧ (s.mapPoint id f).seq = s.seq ∧
    (s.mapPoint id f).pub = s.pub ∧ (s.mapPoint id f).link = s.link ∧ (s.mapPoint id f).port = s.port ∧
    (s.mapPoint id f).freeCount = s.freeCount ∧ (s.mapPoint id f).pending = s.pending := by simp [State.mapPoint]

@[simp] theorem State.mapEntry_frame (s : State) (id : Nat) (f : PointEntry → PointEntry) :
    (s.mapEntry id f).micros = s.micros ∧ (s.mapEntry id f).supplied = s.supplied ∧ (s.mapEntry id f).ctl = s.ctl ∧
    (s.mapEntry id f).bay = s.bay ∧ (s.mapEntry id f).claims = s.claims ∧ (s.mapEntry id f).seq = s.seq ∧
    (s.mapEntry id f).pub = s.pub ∧ (s.mapEntry id f).link = s.link ∧ (s.mapEntry id f).port = s.port ∧
    (s.mapEntry id f).freeCount = s.freeCount ∧ (s.mapEntry id f).pending = s.pending := by simp [State.mapEntry]

@[simp] theorem State.mapPeer_frame (s : State) (unit : Nat) (f : PeerRecord → PeerRecord) :
    (s.mapPeer unit f).micros = s.micros ∧ (s.mapPeer unit f).supplied = s.supplied ∧ (s.mapPeer unit f).ctl = s.ctl ∧
    (s.mapPeer unit f).bay = s.bay ∧ (s.mapPeer unit f).claims = s.claims ∧ (s.mapPeer unit f).seq = s.seq ∧
    (s.mapPeer unit f).pub = s.pub ∧ (s.mapPeer unit f).link = s.link ∧ (s.mapPeer unit f).port = s.port ∧
    (s.mapPeer unit f).freeCount = s.freeCount ∧ (s.mapPeer unit f).pending = s.pending := by simp [State.mapPeer]

@[simp] theorem State.mapZone_frame (s : State) (z : Nat) (f : ZoneClaim → ZoneClaim) :
    (s.mapZone z f).micros = s.micros ∧ (s.mapZone z f).supplied = s.supplied ∧ (s.mapZone z f).ctl = s.ctl ∧
    (s.mapZone z f).bay = s.bay ∧ (s.mapZone z f).image = s.image ∧ (s.mapZone z f).seq = s.seq ∧
    (s.mapZone z f).pub = s.pub ∧ (s.mapZone z f).link = s.link ∧ (s.mapZone z f).port = s.port ∧
    (s.mapZone z f).freeCount = s.freeCount ∧ (s.mapZone z f).pending = s.pending := by simp [State.mapZone]

@[simp] theorem State.setOwn_frame (s : State) (z : Nat) (st : OwnState) :
    (s.setOwn z st).micros = s.micros ∧ (s.setOwn z st).supplied = s.supplied ∧ (s.setOwn z st).ctl = s.ctl ∧
    (s.setOwn z st).bay = s.bay ∧ (s.setOwn z st).image = s.image ∧ (s.setOwn z st).seq = s.seq ∧
    (s.setOwn z st).pub = s.pub ∧ (s.setOwn z st).link = s.link ∧ (s.setOwn z st).port = s.port ∧
    (s.setOwn z st).freeCount = s.freeCount ∧ (s.setOwn z st).pending = s.pending := by simp [State.setOwn]

@[simp] theorem State.mapActive_frame (s : State) (f : Program → Program) :
    (s.mapActive f).micros = s.micros ∧ (s.mapActive f).supplied = s.supplied ∧ (s.mapActive f).ctl = s.ctl ∧
    (s.mapActive f).bay = s.bay ∧ (s.mapActive f).image = s.image ∧ (s.mapActive f).claims = s.claims ∧
    (s.mapActive f).pub = s.pub ∧ (s.mapActive f).link = s.link ∧ (s.mapActive f).port = s.port ∧
    (s.mapActive f).freeCount = s.freeCount ∧ (s.mapActive f).pending = s.pending := by simp [State.mapActive]

@[simp] theorem State.event_frame (s : State) (b : EventBody) :
    (s.event b).micros = s.micros ∧ (s.event b).supplied = s.supplied ∧ (s.event b).ctl = s.ctl ∧
    (s.event b).bay = s.bay ∧ (s.event b).image = s.image ∧ (s.event b).claims = s.claims ∧ (s.event b).seq = s.seq ∧
    (s.event b).pub = s.pub ∧ (s.event b).link = s.link ∧ (s.event b).freeCount = s.freeCount ∧
    (s.event b).pending = s.pending := by simp only [State.event]; split <;> simp

@[simp] theorem State.offerCapture_frame (s : State) (c : Capture) :
    (s.offerCapture c).micros = s.micros ∧ (s.offerCapture c).supplied = s.supplied ∧ (s.offerCapture c).ctl = s.ctl ∧
    (s.offerCapture c).bay = s.bay ∧ (s.offerCapture c).image = s.image ∧ (s.offerCapture c).claims = s.claims ∧
    (s.offerCapture c).seq = s.seq ∧ (s.offerCapture c).pub = s.pub ∧ (s.offerCapture c).link = s.link ∧
    (s.offerCapture c).freeCount = s.freeCount ∧
    (s.offerCapture c).pending = s.pending := by simp only [State.offerCapture]; split <;> simp

@[simp] theorem State.storeBlock_frame (s : State) (w : BlockWrite) :
    (s.storeBlock w).micros = s.micros ∧ (s.storeBlock w).supplied = s.supplied ∧ (s.storeBlock w).bay = s.bay ∧
    (s.storeBlock w).image = s.image ∧ (s.storeBlock w).claims = s.claims ∧ (s.storeBlock w).seq = s.seq ∧
    (s.storeBlock w).pub = s.pub ∧ (s.storeBlock w).link = s.link ∧ (s.storeBlock w).port = s.port ∧
    (s.storeBlock w).freeCount = s.freeCount ∧ (s.storeBlock w).pending = s.pending := by simp [State.storeBlock]

@[simp] theorem State.tearBlock_frame (s : State) :
    s.tearBlock.micros = s.micros ∧ s.tearBlock.supplied = s.supplied ∧ s.tearBlock.bay = s.bay ∧
    s.tearBlock.image = s.image ∧ s.tearBlock.claims = s.claims ∧ s.tearBlock.seq = s.seq ∧ s.tearBlock.pub = s.pub ∧
    s.tearBlock.link = s.link ∧ s.tearBlock.port = s.port ∧
    s.tearBlock.pending = s.pending := by simp only [State.tearBlock]; repeat' split <;> simp

@[simp] theorem tick_frame (s : State) :
    (tick s).supplied = s.supplied ∧ (tick s).ctl = s.ctl ∧ (tick s).bay = s.bay ∧ (tick s).image = s.image ∧
    (tick s).claims = s.claims ∧ (tick s).seq = s.seq ∧ (tick s).pub = s.pub ∧ (tick s).port = s.port ∧
    (tick s).freeCount = s.freeCount ∧ (tick s).pending = s.pending := by simp only [tick]; split <;> simp

@[simp] theorem State.takeHead_frame (s : State) :
    s.takeHead.micros = s.micros ∧ s.takeHead.supplied = s.supplied ∧ s.takeHead.ctl = s.ctl ∧
    s.takeHead.bay = s.bay ∧ s.takeHead.image = s.image ∧ s.takeHead.claims = s.claims ∧ s.takeHead.seq = s.seq ∧
    s.takeHead.pub = s.pub ∧ s.takeHead.port = s.port ∧ s.takeHead.freeCount = s.freeCount ∧
    s.takeHead.pending = s.pending := by simp only [State.takeHead]; split <;> simp

@[simp] theorem State.takeInHand_frame (s : State) :
    s.takeInHand.micros = s.micros ∧ s.takeInHand.supplied = s.supplied ∧ s.takeInHand.ctl = s.ctl ∧
    s.takeInHand.bay = s.bay ∧ s.takeInHand.image = s.image ∧ s.takeInHand.claims = s.claims ∧
    s.takeInHand.seq = s.seq ∧ s.takeInHand.pub = s.pub ∧ s.takeInHand.port = s.port ∧
    s.takeInHand.freeCount = s.freeCount ∧
    s.takeInHand.pending = s.pending := by simp only [State.takeInHand]; split <;> simp

@[simp] theorem State.offer_frame (s : State) (b : FrameBody) :
    (s.offer b).micros = s.micros ∧ (s.offer b).supplied = s.supplied ∧ (s.offer b).ctl = s.ctl ∧
    (s.offer b).bay = s.bay ∧ (s.offer b).image = s.image ∧ (s.offer b).claims = s.claims ∧ (s.offer b).seq = s.seq ∧
    (s.offer b).pub = s.pub ∧ (s.offer b).port = s.port ∧ (s.offer b).freeCount = s.freeCount ∧
    (s.offer b).pending = s.pending := by simp only [State.offer]; split <;> simp

@[simp] theorem State.restartSchedule_frame (s : State) :
    s.restartSchedule.micros = s.micros ∧ s.restartSchedule.supplied = s.supplied ∧ s.restartSchedule.ctl = s.ctl ∧
    s.restartSchedule.bay = s.bay ∧ s.restartSchedule.image = s.image ∧ s.restartSchedule.claims = s.claims ∧
    s.restartSchedule.seq = s.seq ∧ s.restartSchedule.port = s.port ∧ s.restartSchedule.freeCount = s.freeCount ∧
    s.restartSchedule.pending = s.pending := by simp only [State.restartSchedule]; split <;> simp

@[simp] theorem State.countState_frame (s : State) (n : StateNo) :
    (s.countState n).micros = s.micros ∧ (s.countState n).supplied = s.supplied ∧ (s.countState n).ctl = s.ctl ∧
    (s.countState n).bay = s.bay ∧ (s.countState n).image = s.image ∧ (s.countState n).claims = s.claims ∧
    (s.countState n).seq = s.seq ∧ (s.countState n).port = s.port ∧ (s.countState n).freeCount = s.freeCount ∧
    (s.countState n).pending = s.pending := by simp [State.countState]

@[simp] theorem State.publishChange_frame (s : State) :
    s.publishChange.micros = s.micros ∧ s.publishChange.supplied = s.supplied ∧ s.publishChange.ctl = s.ctl ∧
    s.publishChange.bay = s.bay ∧ s.publishChange.image = s.image ∧ s.publishChange.claims = s.claims ∧
    s.publishChange.seq = s.seq ∧ s.publishChange.port = s.port ∧ s.publishChange.freeCount = s.freeCount ∧
    s.publishChange.pending = s.pending := by simp only [State.publishChange]; split <;> simp

@[simp] theorem State.publishStart_frame (s : State) :
    s.publishStart.micros = s.micros ∧ s.publishStart.supplied = s.supplied ∧ s.publishStart.ctl = s.ctl ∧
    s.publishStart.bay = s.bay ∧ s.publishStart.image = s.image ∧ s.publishStart.claims = s.claims ∧
    s.publishStart.seq = s.seq ∧ s.publishStart.port = s.port ∧ s.publishStart.freeCount = s.freeCount ∧
    s.publishStart.pending = s.pending := by simp [State.publishStart]

@[simp] theorem State.publishDue_frame (s : State) :
    s.publishDue.micros = s.micros ∧ s.publishDue.supplied = s.supplied ∧ s.publishDue.ctl = s.ctl ∧
    s.publishDue.bay = s.bay ∧ s.publishDue.image = s.image ∧ s.publishDue.claims = s.claims ∧
    s.publishDue.seq = s.seq ∧ s.publishDue.port = s.port ∧ s.publishDue.freeCount = s.freeCount ∧
    s.publishDue.pending = s.pending := by simp [State.publishDue]

@[simp] theorem State.publishSent_frame (s : State) (n : StateNo) (r : Byte) :
    (s.publishSent n r).micros = s.micros ∧ (s.publishSent n r).supplied = s.supplied ∧
    (s.publishSent n r).ctl = s.ctl ∧ (s.publishSent n r).bay = s.bay ∧ (s.publishSent n r).image = s.image ∧
    (s.publishSent n r).claims = s.claims ∧ (s.publishSent n r).seq = s.seq ∧ (s.publishSent n r).link = s.link ∧
    (s.publishSent n r).port = s.port ∧ (s.publishSent n r).freeCount = s.freeCount ∧
    (s.publishSent n r).pending = s.pending := by simp only [State.publishSent]; split <;> simp

@[simp] theorem State.startProbe_frame (s : State) :
    s.startProbe.micros = s.micros ∧ s.startProbe.supplied = s.supplied ∧ s.startProbe.ctl = s.ctl ∧
    s.startProbe.bay = s.bay ∧ s.startProbe.image = s.image ∧ s.startProbe.claims = s.claims ∧
    s.startProbe.seq = s.seq ∧ s.startProbe.port = s.port ∧ s.startProbe.freeCount = s.freeCount ∧
    s.startProbe.pending = s.pending := by simp [State.startProbe]

@[simp] theorem State.probeSent_frame (s : State) (n : StateNo) :
    (s.probeSent n).micros = s.micros ∧ (s.probeSent n).supplied = s.supplied ∧ (s.probeSent n).ctl = s.ctl ∧
    (s.probeSent n).bay = s.bay ∧ (s.probeSent n).image = s.image ∧ (s.probeSent n).claims = s.claims ∧
    (s.probeSent n).seq = s.seq ∧ (s.probeSent n).port = s.port ∧ (s.probeSent n).freeCount = s.freeCount ∧
    (s.probeSent n).pending = s.pending := by simp only [State.probeSent]; split <;> simp

@[simp] theorem State.stopSchedule_frame (s : State) :
    s.stopSchedule.micros = s.micros ∧ s.stopSchedule.supplied = s.supplied ∧ s.stopSchedule.ctl = s.ctl ∧
    s.stopSchedule.bay = s.bay ∧ s.stopSchedule.image = s.image ∧ s.stopSchedule.claims = s.claims ∧
    s.stopSchedule.seq = s.seq ∧ s.stopSchedule.link = s.link ∧ s.stopSchedule.port = s.port ∧
    s.stopSchedule.freeCount = s.freeCount ∧ s.stopSchedule.pending = s.pending := by simp [State.stopSchedule]

@[simp] theorem State.zoneMovement_frame (s : State) (id : Nat) :
    (s.zoneMovement id).micros = s.micros ∧ (s.zoneMovement id).supplied = s.supplied ∧
    (s.zoneMovement id).ctl = s.ctl ∧ (s.zoneMovement id).bay = s.bay ∧ (s.zoneMovement id).claims = s.claims ∧
    (s.zoneMovement id).seq = s.seq ∧ (s.zoneMovement id).pub = s.pub ∧ (s.zoneMovement id).link = s.link ∧
    (s.zoneMovement id).port = s.port ∧ (s.zoneMovement id).freeCount = s.freeCount ∧
    (s.zoneMovement id).pending = s.pending := by simp [State.zoneMovement]

@[simp] theorem State.localUpdate_frame (s : State) (id : Nat) (v : Option PointValue) (mark : Bool) :
    (s.localUpdate id v mark).micros = s.micros ∧ (s.localUpdate id v mark).supplied = s.supplied ∧
    (s.localUpdate id v mark).ctl = s.ctl ∧ (s.localUpdate id v mark).bay = s.bay ∧
    (s.localUpdate id v mark).claims = s.claims ∧ (s.localUpdate id v mark).seq = s.seq ∧
    (s.localUpdate id v mark).port = s.port ∧ (s.localUpdate id v mark).freeCount = s.freeCount ∧
    (s.localUpdate id v mark).pending = s.pending := by simp only [State.localUpdate]; (repeat' split) <;> simp

@[simp] theorem State.handOver_frame (s : State) (id : Nat) :
    (s.handOver id).micros = s.micros ∧ (s.handOver id).supplied = s.supplied ∧ (s.handOver id).ctl = s.ctl ∧
    (s.handOver id).bay = s.bay ∧ (s.handOver id).claims = s.claims ∧ (s.handOver id).seq = s.seq ∧
    (s.handOver id).port = s.port ∧ (s.handOver id).freeCount = s.freeCount ∧
    (s.handOver id).pending = s.pending := by simp only [State.handOver]; split <;> simp

@[simp] theorem State.revisionCheck_frame (s : State) (sender revision : Nat) :
    (s.revisionCheck sender revision).micros = s.micros ∧ (s.revisionCheck sender revision).supplied = s.supplied ∧
    (s.revisionCheck sender revision).ctl = s.ctl ∧ (s.revisionCheck sender revision).bay = s.bay ∧
    (s.revisionCheck sender revision).claims = s.claims ∧ (s.revisionCheck sender revision).seq = s.seq ∧
    (s.revisionCheck sender revision).pub = s.pub ∧ (s.revisionCheck sender revision).link = s.link ∧
    (s.revisionCheck sender revision).freeCount = s.freeCount ∧
    (s.revisionCheck sender revision).pending = s.pending := by simp only [State.revisionCheck]; (repeat' split) <;> simp

@[simp] theorem zoneMovements_frame (es : List PointEntry) (s : State) :
    (zoneMovements es s).micros = s.micros ∧ (zoneMovements es s).supplied = s.supplied ∧
    (zoneMovements es s).ctl = s.ctl ∧ (zoneMovements es s).bay = s.bay ∧ (zoneMovements es s).claims = s.claims ∧
    (zoneMovements es s).seq = s.seq ∧ (zoneMovements es s).pub = s.pub ∧ (zoneMovements es s).link = s.link ∧
    (zoneMovements es s).port = s.port ∧ (zoneMovements es s).freeCount = s.freeCount ∧
    (zoneMovements es s).pending = s.pending := by
  induction es generalizing s with
  | nil => simp [zoneMovements]
  | cons e rest ih => simp [zoneMovements, ih]

@[simp] theorem State.acceptNew_frame (s : State) (p : PeerRecord) (n : StateNo) (r : Byte) (hold : Nat) (items : List Item) :
    (s.acceptNew p n r hold items).micros = s.micros ∧ (s.acceptNew p n r hold items).supplied = s.supplied ∧
    (s.acceptNew p n r hold items).ctl = s.ctl ∧ (s.acceptNew p n r hold items).bay = s.bay ∧
    (s.acceptNew p n r hold items).claims = s.claims ∧ (s.acceptNew p n r hold items).seq = s.seq ∧
    (s.acceptNew p n r hold items).pub = s.pub ∧ (s.acceptNew p n r hold items).link = s.link ∧
    (s.acceptNew p n r hold items).freeCount = s.freeCount ∧
    (s.acceptNew p n r hold items).pending = s.pending := by simp only [State.acceptNew]; split <;> simp

@[simp] theorem State.acceptRepeat_frame (s : State) (p : PeerRecord) (r : Byte) (hold : Nat) :
    (s.acceptRepeat p r hold).micros = s.micros ∧ (s.acceptRepeat p r hold).supplied = s.supplied ∧
    (s.acceptRepeat p r hold).ctl = s.ctl ∧ (s.acceptRepeat p r hold).bay = s.bay ∧
    (s.acceptRepeat p r hold).claims = s.claims ∧ (s.acceptRepeat p r hold).seq = s.seq ∧
    (s.acceptRepeat p r hold).pub = s.pub ∧ (s.acceptRepeat p r hold).link = s.link ∧
    (s.acceptRepeat p r hold).port = s.port ∧ (s.acceptRepeat p r hold).freeCount = s.freeCount ∧
    (s.acceptRepeat p r hold).pending = s.pending := by simp [State.acceptRepeat]

@[simp] theorem State.acceptWithdrawal_frame (s : State) (p : PeerRecord) (n : StateNo) (r : Byte) :
    (s.acceptWithdrawal p n r).micros = s.micros ∧ (s.acceptWithdrawal p n r).supplied = s.supplied ∧
    (s.acceptWithdrawal p n r).ctl = s.ctl ∧ (s.acceptWithdrawal p n r).bay = s.bay ∧
    (s.acceptWithdrawal p n r).claims = s.claims ∧ (s.acceptWithdrawal p n r).seq = s.seq ∧
    (s.acceptWithdrawal p n r).pub = s.pub ∧ (s.acceptWithdrawal p n r).link = s.link ∧
    (s.acceptWithdrawal p n r).freeCount = s.freeCount ∧
    (s.acceptWithdrawal p n r).pending = s.pending := by simp only [State.acceptWithdrawal]; split <;> simp

@[simp] theorem State.takeBulletin_frame (s : State) (sender : Nat) (n : StateNo) (r : Byte) (hold : Nat) (items : List Item) :
    (s.takeBulletin sender n r hold items).micros = s.micros ∧
    (s.takeBulletin sender n r hold items).supplied = s.supplied ∧
    (s.takeBulletin sender n r hold items).ctl = s.ctl ∧ (s.takeBulletin sender n r hold items).bay = s.bay ∧
    (s.takeBulletin sender n r hold items).claims = s.claims ∧ (s.takeBulletin sender n r hold items).seq = s.seq ∧
    (s.takeBulletin sender n r hold items).pub = s.pub ∧ (s.takeBulletin sender n r hold items).link = s.link ∧
    (s.takeBulletin sender n r hold items).freeCount = s.freeCount ∧
    (s.takeBulletin sender n r hold items).pending = s.pending := by simp only [State.takeBulletin]; (repeat' split) <;> simp

@[simp] theorem State.expirePeer_frame (s : State) (unit : Nat) :
    (s.expirePeer unit).micros = s.micros ∧ (s.expirePeer unit).supplied = s.supplied ∧
    (s.expirePeer unit).ctl = s.ctl ∧ (s.expirePeer unit).bay = s.bay ∧ (s.expirePeer unit).claims = s.claims ∧
    (s.expirePeer unit).seq = s.seq ∧ (s.expirePeer unit).pub = s.pub ∧ (s.expirePeer unit).link = s.link ∧
    (s.expirePeer unit).freeCount = s.freeCount ∧
    (s.expirePeer unit).pending = s.pending := by simp only [State.expirePeer]; (repeat' split) <;> simp

@[simp] theorem State.dropDrive_frame (s : State) :
    s.dropDrive.micros = s.micros ∧ s.dropDrive.supplied = s.supplied ∧ s.dropDrive.ctl = s.ctl ∧
    s.dropDrive.image = s.image ∧ s.dropDrive.claims = s.claims ∧ s.dropDrive.seq = s.seq ∧ s.dropDrive.pub = s.pub ∧
    s.dropDrive.link = s.link ∧ s.dropDrive.port = s.port ∧ s.dropDrive.freeCount = s.freeCount ∧
    s.dropDrive.pending = s.pending := by simp [State.dropDrive]

@[simp] theorem State.reportDrive_frame (s : State) (r : DriveReport) :
    (s.reportDrive r).micros = s.micros ∧ (s.reportDrive r).supplied = s.supplied ∧ (s.reportDrive r).ctl = s.ctl ∧
    (s.reportDrive r).image = s.image ∧ (s.reportDrive r).claims = s.claims ∧ (s.reportDrive r).seq = s.seq ∧
    (s.reportDrive r).pub = s.pub ∧ (s.reportDrive r).link = s.link ∧ (s.reportDrive r).port = s.port ∧
    (s.reportDrive r).freeCount = s.freeCount ∧ (s.reportDrive r).pending = s.pending := by simp [State.reportDrive]

@[simp] theorem State.markSuspect_frame (s : State) (id : Nat) :
    (s.markSuspect id).micros = s.micros ∧ (s.markSuspect id).supplied = s.supplied ∧ (s.markSuspect id).ctl = s.ctl ∧
    (s.markSuspect id).image = s.image ∧ (s.markSuspect id).claims = s.claims ∧ (s.markSuspect id).seq = s.seq ∧
    (s.markSuspect id).pub = s.pub ∧ (s.markSuspect id).link = s.link ∧ (s.markSuspect id).port = s.port ∧
    (s.markSuspect id).freeCount = s.freeCount ∧ (s.markSuspect id).pending = s.pending := by simp [State.markSuspect]

@[simp] theorem State.failSwitch_frame (s : State) (kind : FaultKind) (id : Nat) (order : Option (Nat × Nat)) :
    (s.failSwitch kind id order).micros = s.micros ∧ (s.failSwitch kind id order).supplied = s.supplied ∧
    (s.failSwitch kind id order).ctl = s.ctl ∧ (s.failSwitch kind id order).claims = s.claims ∧
    (s.failSwitch kind id order).seq = s.seq ∧ (s.failSwitch kind id order).freeCount = s.freeCount ∧
    (s.failSwitch kind id order).pending = s.pending := by simp only [State.failSwitch]; split <;> simp

@[simp] theorem State.driveOrder_frame (s : State) (id : Nat) (t : Target) (handle step : Nat) :
    (s.driveOrder id t handle step).micros = s.micros ∧ (s.driveOrder id t handle step).supplied = s.supplied ∧
    (s.driveOrder id t handle step).ctl = s.ctl ∧ (s.driveOrder id t handle step).claims = s.claims ∧
    (s.driveOrder id t handle step).seq = s.seq ∧ (s.driveOrder id t handle step).freeCount = s.freeCount ∧
    (s.driveOrder id t handle step).pending = s.pending := by simp only [State.driveOrder]; split <;> simp

@[simp] theorem State.completeDrive_frame (s : State) (id : Nat) :
    (s.completeDrive id).micros = s.micros ∧ (s.completeDrive id).supplied = s.supplied ∧
    (s.completeDrive id).ctl = s.ctl ∧ (s.completeDrive id).claims = s.claims ∧ (s.completeDrive id).seq = s.seq ∧
    (s.completeDrive id).port = s.port ∧ (s.completeDrive id).freeCount = s.freeCount ∧
    (s.completeDrive id).pending = s.pending := by simp [State.completeDrive]

@[simp] theorem State.supervise_frame (s : State) (d : DriveRecord) (v : PointValue) :
    (s.supervise d v).micros = s.micros ∧ (s.supervise d v).supplied = s.supplied ∧ (s.supervise d v).ctl = s.ctl ∧
    (s.supervise d v).claims = s.claims ∧ (s.supervise d v).seq = s.seq ∧ (s.supervise d v).freeCount = s.freeCount ∧
    (s.supervise d v).pending = s.pending := by simp only [State.supervise]; (repeat' split) <;> simp

@[simp] theorem State.stuckRule_frame (s : State) (id : Nat) (v : PointValue) :
    (s.stuckRule id v).micros = s.micros ∧ (s.stuckRule id v).supplied = s.supplied ∧ (s.stuckRule id v).ctl = s.ctl ∧
    (s.stuckRule id v).image = s.image ∧ (s.stuckRule id v).claims = s.claims ∧ (s.stuckRule id v).seq = s.seq ∧
    (s.stuckRule id v).pub = s.pub ∧ (s.stuckRule id v).link = s.link ∧ (s.stuckRule id v).port = s.port ∧
    (s.stuckRule id v).freeCount = s.freeCount ∧ (s.stuckRule id v).pending = s.pending := by simp [State.stuckRule]

@[simp] theorem State.uncommanded_frame (s : State) (id : Nat) (old : Option PointValue) (v : PointValue) :
    (s.uncommanded id old v).micros = s.micros ∧ (s.uncommanded id old v).supplied = s.supplied ∧
    (s.uncommanded id old v).ctl = s.ctl ∧ (s.uncommanded id old v).bay = s.bay ∧
    (s.uncommanded id old v).image = s.image ∧ (s.uncommanded id old v).claims = s.claims ∧
    (s.uncommanded id old v).seq = s.seq ∧ (s.uncommanded id old v).pub = s.pub ∧
    (s.uncommanded id old v).link = s.link ∧ (s.uncommanded id old v).freeCount = s.freeCount ∧
    (s.uncommanded id old v).pending = s.pending := by simp only [State.uncommanded]; split <;> simp

@[simp] theorem State.localChange_frame (s : State) (id : Nat) (old : Option PointValue) (v : PointValue) :
    (s.localChange id old v).micros = s.micros ∧ (s.localChange id old v).supplied = s.supplied ∧
    (s.localChange id old v).ctl = s.ctl ∧ (s.localChange id old v).claims = s.claims ∧
    (s.localChange id old v).seq = s.seq ∧ (s.localChange id old v).freeCount = s.freeCount ∧
    (s.localChange id old v).pending = s.pending := by simp only [State.localChange]; (repeat' split) <;> simp

@[simp] theorem State.formReading_frame (s : State) (line : Line) :
    (s.formReading line).micros = s.micros ∧ (s.formReading line).supplied = s.supplied ∧
    (s.formReading line).ctl = s.ctl ∧ (s.formReading line).image = s.image ∧ (s.formReading line).claims = s.claims ∧
    (s.formReading line).seq = s.seq ∧ (s.formReading line).pub = s.pub ∧ (s.formReading line).link = s.link ∧
    (s.formReading line).port = s.port ∧ (s.formReading line).freeCount = s.freeCount ∧
    (s.formReading line).pending = s.pending := by simp only [State.formReading]; (repeat' split) <;> simp

@[simp] theorem State.lineChange_frame (s : State) (line : Line) (made : Bool) :
    (s.lineChange line made).micros = s.micros ∧ (s.lineChange line made).supplied = s.supplied ∧
    (s.lineChange line made).ctl = s.ctl ∧ (s.lineChange line made).image = s.image ∧
    (s.lineChange line made).claims = s.claims ∧ (s.lineChange line made).seq = s.seq ∧
    (s.lineChange line made).pub = s.pub ∧ (s.lineChange line made).link = s.link ∧
    (s.lineChange line made).port = s.port ∧ (s.lineChange line made).freeCount = s.freeCount ∧
    (s.lineChange line made).pending = s.pending := by simp only [State.lineChange]; (repeat' split) <;> simp

@[simp] theorem State.filterPoint_frame (s : State) (id : Nat) :
    (s.filterPoint id).micros = s.micros ∧ (s.filterPoint id).supplied = s.supplied ∧ (s.filterPoint id).ctl = s.ctl ∧
    (s.filterPoint id).claims = s.claims ∧ (s.filterPoint id).seq = s.seq ∧
    (s.filterPoint id).freeCount = s.freeCount ∧
    (s.filterPoint id).pending = s.pending := by simp only [State.filterPoint]; (repeat' split) <;> simp

@[simp] theorem State.beginFiltering_frame (s : State) :
    s.beginFiltering.micros = s.micros ∧ s.beginFiltering.supplied = s.supplied ∧ s.beginFiltering.ctl = s.ctl ∧
    s.beginFiltering.image = s.image ∧ s.beginFiltering.claims = s.claims ∧ s.beginFiltering.seq = s.seq ∧
    s.beginFiltering.pub = s.pub ∧ s.beginFiltering.link = s.link ∧ s.beginFiltering.port = s.port ∧
    s.beginFiltering.freeCount = s.freeCount ∧ s.beginFiltering.pending = s.pending := by simp [State.beginFiltering]

@[simp] theorem State.stuckExpiry_frame (s : State) (id : Nat) :
    (s.stuckExpiry id).micros = s.micros ∧ (s.stuckExpiry id).supplied = s.supplied ∧ (s.stuckExpiry id).ctl = s.ctl ∧
    (s.stuckExpiry id).claims = s.claims ∧ (s.stuckExpiry id).seq = s.seq ∧
    (s.stuckExpiry id).freeCount = s.freeCount ∧
    (s.stuckExpiry id).pending = s.pending := by simp only [State.stuckExpiry]; (repeat' split) <;> simp

@[simp] theorem State.runExpiry_frame (s : State) :
    s.runExpiry.micros = s.micros ∧ s.runExpiry.supplied = s.supplied ∧ s.runExpiry.ctl = s.ctl ∧
    s.runExpiry.claims = s.claims ∧ s.runExpiry.seq = s.seq ∧ s.runExpiry.freeCount = s.freeCount ∧
    s.runExpiry.pending = s.pending := by simp only [State.runExpiry]; (repeat' split) <;> simp

@[simp] theorem State.clearMark_frame (s : State) (id : Nat) :
    (s.clearMark id).micros = s.micros ∧ (s.clearMark id).supplied = s.supplied ∧ (s.clearMark id).ctl = s.ctl ∧
    (s.clearMark id).claims = s.claims ∧ (s.clearMark id).seq = s.seq ∧ (s.clearMark id).freeCount = s.freeCount ∧
    (s.clearMark id).pending = s.pending := by simp [State.clearMark]

@[simp] theorem State.askZone_frame (s : State) (z : Nat) :
    (s.askZone z).micros = s.micros ∧ (s.askZone z).supplied = s.supplied ∧ (s.askZone z).ctl = s.ctl ∧
    (s.askZone z).bay = s.bay ∧ (s.askZone z).image = s.image ∧ (s.askZone z).seq = s.seq ∧
    (s.askZone z).pub = s.pub ∧ (s.askZone z).port = s.port ∧ (s.askZone z).freeCount = s.freeCount ∧
    (s.askZone z).pending = s.pending := by simp [State.askZone]

@[simp] theorem State.holdZone_frame (s : State) (z : Nat) :
    (s.holdZone z).micros = s.micros ∧ (s.holdZone z).supplied = s.supplied ∧ (s.holdZone z).ctl = s.ctl ∧
    (s.holdZone z).bay = s.bay ∧ (s.holdZone z).image = s.image ∧ (s.holdZone z).seq = s.seq ∧
    (s.holdZone z).pub = s.pub ∧ (s.holdZone z).port = s.port ∧ (s.holdZone z).freeCount = s.freeCount ∧
    (s.holdZone z).pending = s.pending := by simp [State.holdZone]

@[simp] theorem State.dropZone_frame (s : State) (z : Nat) :
    (s.dropZone z).micros = s.micros ∧ (s.dropZone z).supplied = s.supplied ∧ (s.dropZone z).ctl = s.ctl ∧
    (s.dropZone z).bay = s.bay ∧ (s.dropZone z).image = s.image ∧ (s.dropZone z).seq = s.seq ∧
    (s.dropZone z).pub = s.pub ∧ (s.dropZone z).port = s.port ∧ (s.dropZone z).freeCount = s.freeCount ∧
    (s.dropZone z).pending = s.pending := by simp only [State.dropZone]; split <;> simp

@[simp] theorem State.dropZones_frame (zs : List Nat) (s : State) :
    (State.dropZones zs s).micros = s.micros ∧ (State.dropZones zs s).supplied = s.supplied ∧
    (State.dropZones zs s).ctl = s.ctl ∧ (State.dropZones zs s).bay = s.bay ∧ (State.dropZones zs s).image = s.image ∧
    (State.dropZones zs s).seq = s.seq ∧ (State.dropZones zs s).pub = s.pub ∧ (State.dropZones zs s).port = s.port ∧
    (State.dropZones zs s).freeCount = s.freeCount ∧ (State.dropZones zs s).pending = s.pending := by
  induction zs generalizing s with
  | nil => simp [State.dropZones]
  | cons z rest ih => simp [State.dropZones, ih]

@[simp] theorem State.setJob_frame (s : State) (j : Option (List Nat)) :
    (s.setJob j).micros = s.micros ∧ (s.setJob j).supplied = s.supplied ∧ (s.setJob j).ctl = s.ctl ∧
    (s.setJob j).bay = s.bay ∧ (s.setJob j).image = s.image ∧ (s.setJob j).seq = s.seq ∧ (s.setJob j).pub = s.pub ∧
    (s.setJob j).link = s.link ∧ (s.setJob j).port = s.port ∧ (s.setJob j).freeCount = s.freeCount ∧
    (s.setJob j).pending = s.pending := by simp [State.setJob]

@[simp] theorem State.claimOrder_frame (s : State) (zones : List Nat) :
    (s.claimOrder zones).micros = s.micros ∧ (s.claimOrder zones).supplied = s.supplied ∧
    (s.claimOrder zones).ctl = s.ctl ∧ (s.claimOrder zones).bay = s.bay ∧ (s.claimOrder zones).image = s.image ∧
    (s.claimOrder zones).seq = s.seq ∧ (s.claimOrder zones).pub = s.pub ∧ (s.claimOrder zones).port = s.port ∧
    (s.claimOrder zones).freeCount = s.freeCount ∧
    (s.claimOrder zones).pending = s.pending := by simp only [State.claimOrder]; split <;> simp

@[simp] theorem State.loseWindow_frame (s : State) (z : Nat) :
    (s.loseWindow z).micros = s.micros ∧ (s.loseWindow z).supplied = s.supplied ∧ (s.loseWindow z).ctl = s.ctl ∧
    (s.loseWindow z).bay = s.bay ∧ (s.loseWindow z).image = s.image ∧ (s.loseWindow z).pub = s.pub ∧
    (s.loseWindow z).link = s.link ∧ (s.loseWindow z).port = s.port ∧ (s.loseWindow z).freeCount = s.freeCount ∧
    (s.loseWindow z).pending = s.pending := by simp [State.loseWindow]

@[simp] theorem State.retest_frame (s : State) (z : Nat) :
    (s.retest z).micros = s.micros ∧ (s.retest z).supplied = s.supplied ∧ (s.retest z).ctl = s.ctl ∧
    (s.retest z).bay = s.bay ∧ (s.retest z).image = s.image ∧ (s.retest z).seq = s.seq ∧ (s.retest z).pub = s.pub ∧
    (s.retest z).port = s.port ∧ (s.retest z).freeCount = s.freeCount ∧
    (s.retest z).pending = s.pending := by simp only [State.retest]; split <;> simp

@[simp] theorem State.claimsMuted_frame (s : State) :
    s.claimsMuted.micros = s.micros ∧ s.claimsMuted.supplied = s.supplied ∧ s.claimsMuted.ctl = s.ctl ∧
    s.claimsMuted.bay = s.bay ∧ s.claimsMuted.image = s.image ∧ s.claimsMuted.seq = s.seq ∧
    s.claimsMuted.pub = s.pub ∧ s.claimsMuted.link = s.link ∧ s.claimsMuted.port = s.port ∧
    s.claimsMuted.freeCount = s.freeCount ∧ s.claimsMuted.pending = s.pending := by simp [State.claimsMuted]

@[simp] theorem State.removeEntry_frame (s : State) (z unit : Nat) (gone : PeerClaim → Bool) :
    (s.removeEntry z unit gone).micros = s.micros ∧ (s.removeEntry z unit gone).supplied = s.supplied ∧
    (s.removeEntry z unit gone).ctl = s.ctl ∧ (s.removeEntry z unit gone).bay = s.bay ∧
    (s.removeEntry z unit gone).image = s.image ∧ (s.removeEntry z unit gone).seq = s.seq ∧
    (s.removeEntry z unit gone).pub = s.pub ∧ (s.removeEntry z unit gone).port = s.port ∧
    (s.removeEntry z unit gone).freeCount = s.freeCount ∧
    (s.removeEntry z unit gone).pending = s.pending := by simp only [State.removeEntry]; split <;> simp

@[simp] theorem State.secondAsk_frame (s : State) (z : Nat) :
    (s.secondAsk z).micros = s.micros ∧ (s.secondAsk z).supplied = s.supplied ∧ (s.secondAsk z).ctl = s.ctl ∧
    (s.secondAsk z).bay = s.bay ∧ (s.secondAsk z).image = s.image ∧ (s.secondAsk z).seq = s.seq ∧
    (s.secondAsk z).pub = s.pub ∧ (s.secondAsk z).port = s.port ∧ (s.secondAsk z).freeCount = s.freeCount ∧
    (s.secondAsk z).pending = s.pending := by simp only [State.secondAsk]; (repeat' split) <;> simp

@[simp] theorem State.refreshZone_frame (s : State) (z : Nat) :
    (s.refreshZone z).micros = s.micros ∧ (s.refreshZone z).supplied = s.supplied ∧ (s.refreshZone z).ctl = s.ctl ∧
    (s.refreshZone z).bay = s.bay ∧ (s.refreshZone z).image = s.image ∧ (s.refreshZone z).seq = s.seq ∧
    (s.refreshZone z).pub = s.pub ∧ (s.refreshZone z).port = s.port ∧ (s.refreshZone z).freeCount = s.freeCount ∧
    (s.refreshZone z).pending = s.pending := by simp only [State.refreshZone]; (repeat' split) <;> simp

@[simp] theorem State.setPhase_frame (s : State) (ph : Phase) :
    (s.setPhase ph).micros = s.micros ∧ (s.setPhase ph).supplied = s.supplied ∧ (s.setPhase ph).ctl = s.ctl ∧
    (s.setPhase ph).bay = s.bay ∧ (s.setPhase ph).image = s.image ∧ (s.setPhase ph).claims = s.claims ∧
    (s.setPhase ph).pub = s.pub ∧ (s.setPhase ph).link = s.link ∧ (s.setPhase ph).port = s.port ∧
    (s.setPhase ph).freeCount = s.freeCount ∧ (s.setPhase ph).pending = s.pending := by simp [State.setPhase]

@[simp] theorem State.endActive_frame (s : State) (e : EndStatus) :
    (s.endActive e).micros = s.micros ∧ (s.endActive e).supplied = s.supplied ∧ (s.endActive e).ctl = s.ctl ∧
    (s.endActive e).bay = s.bay ∧ (s.endActive e).image = s.image ∧ (s.endActive e).pub = s.pub ∧
    (s.endActive e).freeCount = s.freeCount ∧
    (s.endActive e).pending = s.pending := by simp only [State.endActive]; split <;> simp

@[simp] theorem endQueued_frame (reason : Reason) (ps : List Program) (s : State) :
    (endQueued reason ps s).micros = s.micros ∧ (endQueued reason ps s).supplied = s.supplied ∧
    (endQueued reason ps s).ctl = s.ctl ∧ (endQueued reason ps s).bay = s.bay ∧
    (endQueued reason ps s).image = s.image ∧ (endQueued reason ps s).claims = s.claims ∧
    (endQueued reason ps s).seq = s.seq ∧ (endQueued reason ps s).pub = s.pub ∧
    (endQueued reason ps s).link = s.link ∧ (endQueued reason ps s).freeCount = s.freeCount ∧
    (endQueued reason ps s).pending = s.pending := by
  induction ps generalizing s with
  | nil => simp [endQueued]
  | cons p rest ih => simp [endQueued, ih]

@[simp] theorem State.abortQueue_frame (s : State) (reason : Reason) :
    (s.abortQueue reason).micros = s.micros ∧ (s.abortQueue reason).supplied = s.supplied ∧
    (s.abortQueue reason).ctl = s.ctl ∧ (s.abortQueue reason).bay = s.bay ∧ (s.abortQueue reason).image = s.image ∧
    (s.abortQueue reason).claims = s.claims ∧ (s.abortQueue reason).pub = s.pub ∧
    (s.abortQueue reason).link = s.link ∧ (s.abortQueue reason).freeCount = s.freeCount ∧
    (s.abortQueue reason).pending = s.pending := by simp [State.abortQueue]

@[simp] theorem State.beginDrive_frame (s : State) (st : Step) :
    (s.beginDrive st).micros = s.micros ∧ (s.beginDrive st).supplied = s.supplied ∧ (s.beginDrive st).ctl = s.ctl ∧
    (s.beginDrive st).claims = s.claims ∧ (s.beginDrive st).freeCount = s.freeCount ∧
    (s.beginDrive st).pending = s.pending := by simp [State.beginDrive]

@[simp] theorem runSteps_frame (sts : List Step) (s : State) :
    (runSteps sts s).micros = s.micros ∧ (runSteps sts s).supplied = s.supplied ∧ (runSteps sts s).ctl = s.ctl ∧
    (runSteps sts s).freeCount = s.freeCount ∧ (runSteps sts s).pending = s.pending := by
  induction sts generalizing s with
  | nil => simp [runSteps]
  | cons st rest ih => simp only [runSteps]; (repeat' split) <;> simp [ih]

@[simp] theorem State.testGuard_frame (s : State) :
    s.testGuard.micros = s.micros ∧ s.testGuard.supplied = s.supplied ∧ s.testGuard.ctl = s.ctl ∧
    s.testGuard.freeCount = s.freeCount ∧ s.testGuard.pending = s.pending := by simp [State.testGuard]

@[simp] theorem State.enterGuard_frame (s : State) :
    s.enterGuard.micros = s.micros ∧ s.enterGuard.supplied = s.supplied ∧ s.enterGuard.ctl = s.ctl ∧
    s.enterGuard.freeCount = s.freeCount ∧ s.enterGuard.pending = s.pending := by simp [State.enterGuard]

@[simp] theorem State.startClaiming_frame (s : State) (zones : List Nat) :
    (s.startClaiming zones).micros = s.micros ∧ (s.startClaiming zones).supplied = s.supplied ∧
    (s.startClaiming zones).ctl = s.ctl ∧ (s.startClaiming zones).freeCount = s.freeCount ∧
    (s.startClaiming zones).pending = s.pending := by simp only [State.startClaiming]; split <;> simp

@[simp] theorem State.takeUpOne_frame (s : State) (p : Program) (rest : List Program) :
    (s.takeUpOne p rest).micros = s.micros ∧ (s.takeUpOne p rest).supplied = s.supplied ∧
    (s.takeUpOne p rest).ctl = s.ctl ∧ (s.takeUpOne p rest).freeCount = s.freeCount ∧
    (s.takeUpOne p rest).pending = s.pending := by simp only [State.takeUpOne]; (repeat' split) <;> simp

@[simp] theorem takeUp_frame (ps : List Program) (s : State) :
    (takeUp ps s).micros = s.micros ∧ (takeUp ps s).supplied = s.supplied ∧ (takeUp ps s).ctl = s.ctl ∧
    (takeUp ps s).freeCount = s.freeCount ∧ (takeUp ps s).pending = s.pending := by
  induction ps generalizing s with
  | nil => simp [takeUp]
  | cons p rest ih => simp only [takeUp]; split <;> simp [ih]

@[simp] theorem State.takeUpNext_frame (s : State) :
    s.takeUpNext.micros = s.micros ∧ s.takeUpNext.supplied = s.supplied ∧ s.takeUpNext.ctl = s.ctl ∧
    s.takeUpNext.freeCount = s.freeCount ∧ s.takeUpNext.pending = s.pending := by simp [State.takeUpNext]

@[simp] theorem State.finish_frame (s : State) (e : EndStatus) :
    (s.finish e).micros = s.micros ∧ (s.finish e).supplied = s.supplied ∧ (s.finish e).ctl = s.ctl ∧
    (s.finish e).freeCount = s.freeCount ∧ (s.finish e).pending = s.pending := by simp [State.finish]

@[simp] theorem State.enqueue_frame (s : State) (urgency : Nat) (steps : List Step) :
    (s.enqueue urgency steps).micros = s.micros ∧ (s.enqueue urgency steps).supplied = s.supplied ∧
    (s.enqueue urgency steps).ctl = s.ctl ∧ (s.enqueue urgency steps).freeCount = s.freeCount ∧
    (s.enqueue urgency steps).pending = s.pending := by simp [State.enqueue]

@[simp] theorem State.giveBack_frame (s : State) (cause : YieldCause) (y : YieldFrom) :
    (s.giveBack cause y).micros = s.micros ∧ (s.giveBack cause y).supplied = s.supplied ∧
    (s.giveBack cause y).ctl = s.ctl ∧ (s.giveBack cause y).bay = s.bay ∧ (s.giveBack cause y).image = s.image ∧
    (s.giveBack cause y).pub = s.pub ∧ (s.giveBack cause y).freeCount = s.freeCount ∧
    (s.giveBack cause y).pending = s.pending := by simp only [State.giveBack]; split <;> simp

@[simp] theorem State.yieldZones_frame (s : State) (cause : YieldCause) (y : YieldFrom) :
    (s.yieldZones cause y).micros = s.micros ∧ (s.yieldZones cause y).supplied = s.supplied ∧
    (s.yieldZones cause y).ctl = s.ctl ∧ (s.yieldZones cause y).freeCount = s.freeCount ∧
    (s.yieldZones cause y).pending = s.pending := by simp only [State.yieldZones]; split <;> simp

@[simp] theorem State.nextStep_frame (s : State) (yield : Option YieldFrom) :
    (s.nextStep yield).micros = s.micros ∧ (s.nextStep yield).supplied = s.supplied ∧ (s.nextStep yield).ctl = s.ctl ∧
    (s.nextStep yield).freeCount = s.freeCount ∧
    (s.nextStep yield).pending = s.pending := by simp only [State.nextStep]; (repeat' split) <;> simp

@[simp] theorem State.stepEnd_frame (s : State) (p : Program) (r : DriveReport) :
    (s.stepEnd p r).micros = s.micros ∧ (s.stepEnd p r).supplied = s.supplied ∧ (s.stepEnd p r).ctl = s.ctl ∧
    (s.stepEnd p r).freeCount = s.freeCount ∧
    (s.stepEnd p r).pending = s.pending := by simp only [State.stepEnd]; (repeat' split) <;> simp

@[simp] theorem State.takeReport_frame (s : State) :
    s.takeReport.micros = s.micros ∧ s.takeReport.supplied = s.supplied ∧ s.takeReport.ctl = s.ctl ∧
    s.takeReport.freeCount = s.freeCount ∧
    s.takeReport.pending = s.pending := by simp only [State.takeReport]; (repeat' split) <;> simp

@[simp] theorem State.stopActive_frame (s : State) (c : StopCause) :
    (s.stopActive c).micros = s.micros ∧ (s.stopActive c).supplied = s.supplied ∧ (s.stopActive c).ctl = s.ctl ∧
    (s.stopActive c).bay = s.bay ∧ (s.stopActive c).image = s.image ∧ (s.stopActive c).pub = s.pub ∧
    (s.stopActive c).freeCount = s.freeCount ∧
    (s.stopActive c).pending = s.pending := by simp only [State.stopActive]; (repeat' split) <;> simp

@[simp] theorem State.localTakeover_frame (s : State) :
    s.localTakeover.micros = s.micros ∧ s.localTakeover.supplied = s.supplied ∧ s.localTakeover.ctl = s.ctl ∧
    s.localTakeover.bay = s.bay ∧ s.localTakeover.image = s.image ∧ s.localTakeover.pub = s.pub ∧
    s.localTakeover.freeCount = s.freeCount ∧ s.localTakeover.pending = s.pending := by simp [State.localTakeover]

@[simp] theorem State.programsMuted_frame (s : State) :
    s.programsMuted.micros = s.micros ∧ s.programsMuted.supplied = s.supplied ∧ s.programsMuted.ctl = s.ctl ∧
    s.programsMuted.bay = s.bay ∧ s.programsMuted.image = s.image ∧ s.programsMuted.pub = s.pub ∧
    s.programsMuted.freeCount = s.freeCount ∧ s.programsMuted.pending = s.pending := by simp [State.programsMuted]

@[simp] theorem State.cancel_frame (s : State) (h : Nat) :
    (s.cancel h).micros = s.micros ∧ (s.cancel h).supplied = s.supplied ∧ (s.cancel h).ctl = s.ctl ∧
    (s.cancel h).freeCount = s.freeCount ∧
    (s.cancel h).pending = s.pending := by simp only [State.cancel]; split <;> simp

@[simp] theorem State.yieldReported_frame (s : State) (y : YieldFrom) :
    (s.yieldReported y).micros = s.micros ∧ (s.yieldReported y).supplied = s.supplied ∧
    (s.yieldReported y).ctl = s.ctl ∧ (s.yieldReported y).freeCount = s.freeCount ∧
    (s.yieldReported y).pending = s.pending := by simp only [State.yieldReported]; split <;> simp

@[simp] theorem State.offerClash_frame (s : State) (z : Nat) :
    (s.offerClash z).micros = s.micros ∧ (s.offerClash z).supplied = s.supplied ∧ (s.offerClash z).ctl = s.ctl ∧
    (s.offerClash z).bay = s.bay ∧ (s.offerClash z).image = s.image ∧ (s.offerClash z).claims = s.claims ∧
    (s.offerClash z).pub = s.pub ∧ (s.offerClash z).link = s.link ∧ (s.offerClash z).freeCount = s.freeCount ∧
    (s.offerClash z).pending = s.pending := by simp only [State.offerClash]; split <;> simp

@[simp] theorem State.splitLost_frame (s : State) (y : YieldFrom) :
    (s.splitLost y).micros = s.micros ∧ (s.splitLost y).supplied = s.supplied ∧ (s.splitLost y).ctl = s.ctl ∧
    (s.splitLost y).freeCount = s.freeCount ∧
    (s.splitLost y).pending = s.pending := by simp only [State.splitLost]; split <;> simp

@[simp] theorem State.winZone_frame (s : State) (z : Nat) :
    (s.winZone z).micros = s.micros ∧ (s.winZone z).supplied = s.supplied ∧ (s.winZone z).ctl = s.ctl ∧
    (s.winZone z).freeCount = s.freeCount ∧
    (s.winZone z).pending = s.pending := by simp only [State.winZone]; split <;> simp

@[simp] theorem State.closeWindow_frame (s : State) (z : Nat) :
    (s.closeWindow z).micros = s.micros ∧ (s.closeWindow z).supplied = s.supplied ∧ (s.closeWindow z).ctl = s.ctl ∧
    (s.closeWindow z).freeCount = s.freeCount ∧
    (s.closeWindow z).pending = s.pending := by simp only [State.closeWindow]; (repeat' split) <;> simp

@[simp] theorem State.claimExpiry_frame (s : State) :
    s.claimExpiry.micros = s.micros ∧ s.claimExpiry.supplied = s.supplied ∧ s.claimExpiry.ctl = s.ctl ∧
    s.claimExpiry.freeCount = s.freeCount ∧
    s.claimExpiry.pending = s.pending := by simp only [State.claimExpiry]; (repeat' split) <;> simp

@[simp] theorem State.guardRetest_frame (s : State) :
    s.guardRetest.micros = s.micros ∧ s.guardRetest.supplied = s.supplied ∧ s.guardRetest.ctl = s.ctl ∧
    s.guardRetest.freeCount = s.freeCount ∧
    s.guardRetest.pending = s.pending := by simp only [State.guardRetest]; (repeat' split) <;> simp

@[simp] theorem State.guardExpiry_frame (s : State) :
    s.guardExpiry.micros = s.micros ∧ s.guardExpiry.supplied = s.supplied ∧ s.guardExpiry.ctl = s.ctl ∧
    s.guardExpiry.freeCount = s.freeCount ∧
    s.guardExpiry.pending = s.pending := by simp only [State.guardExpiry]; (repeat' split) <;> simp

@[simp] theorem State.enter_frame (s : State) (z : Nat) (e : PeerClaim) :
    (s.enter z e).micros = s.micros ∧ (s.enter z e).supplied = s.supplied ∧ (s.enter z e).ctl = s.ctl ∧
    (s.enter z e).bay = s.bay ∧ (s.enter z e).image = s.image ∧ (s.enter z e).seq = s.seq ∧
    (s.enter z e).pub = s.pub ∧ (s.enter z e).link = s.link ∧ (s.enter z e).port = s.port ∧
    (s.enter z e).freeCount = s.freeCount ∧ (s.enter z e).pending = s.pending := by simp [State.enter]

@[simp] theorem State.promptRetest_frame (s : State) (z : Nat) (prompt : Bool) :
    (s.promptRetest z prompt).micros = s.micros ∧ (s.promptRetest z prompt).supplied = s.supplied ∧
    (s.promptRetest z prompt).ctl = s.ctl ∧ (s.promptRetest z prompt).bay = s.bay ∧
    (s.promptRetest z prompt).image = s.image ∧ (s.promptRetest z prompt).seq = s.seq ∧
    (s.promptRetest z prompt).pub = s.pub ∧ (s.promptRetest z prompt).port = s.port ∧
    (s.promptRetest z prompt).freeCount = s.freeCount ∧
    (s.promptRetest z prompt).pending = s.pending := by simp only [State.promptRetest]; split <;> simp

@[simp] theorem State.askHeard_frame (s : State) (z : Nat) (e : PeerClaim) (prompt : Bool) :
    (s.askHeard z e prompt).micros = s.micros ∧ (s.askHeard z e prompt).supplied = s.supplied ∧
    (s.askHeard z e prompt).ctl = s.ctl ∧ (s.askHeard z e prompt).bay = s.bay ∧
    (s.askHeard z e prompt).image = s.image ∧ (s.askHeard z e prompt).pub = s.pub ∧
    (s.askHeard z e prompt).port = s.port ∧ (s.askHeard z e prompt).freeCount = s.freeCount ∧
    (s.askHeard z e prompt).pending = s.pending := by simp only [State.askHeard]; (repeat' split) <;> simp

@[simp] theorem State.takeAsk_frame (s : State) (sender z urgency defer lifetime : Nat) :
    (s.takeAsk sender z urgency defer lifetime).micros = s.micros ∧
    (s.takeAsk sender z urgency defer lifetime).supplied = s.supplied ∧
    (s.takeAsk sender z urgency defer lifetime).ctl = s.ctl ∧
    (s.takeAsk sender z urgency defer lifetime).bay = s.bay ∧
    (s.takeAsk sender z urgency defer lifetime).image = s.image ∧
    (s.takeAsk sender z urgency defer lifetime).pub = s.pub ∧
    (s.takeAsk sender z urgency defer lifetime).port = s.port ∧
    (s.takeAsk sender z urgency defer lifetime).freeCount = s.freeCount ∧
    (s.takeAsk sender z urgency defer lifetime).pending = s.pending := by simp only [State.takeAsk]; split <;> simp

@[simp] theorem State.yieldRule_frame (s : State) (z : Nat) (e : PeerClaim) :
    (s.yieldRule z e).micros = s.micros ∧ (s.yieldRule z e).supplied = s.supplied ∧ (s.yieldRule z e).ctl = s.ctl ∧
    (s.yieldRule z e).bay = s.bay ∧ (s.yieldRule z e).image = s.image ∧ (s.yieldRule z e).claims = s.claims ∧
    (s.yieldRule z e).seq = s.seq ∧ (s.yieldRule z e).pub = s.pub ∧ (s.yieldRule z e).port = s.port ∧
    (s.yieldRule z e).freeCount = s.freeCount ∧
    (s.yieldRule z e).pending = s.pending := by simp only [State.yieldRule]; split <;> simp

@[simp] theorem State.holdHeard_frame (s : State) (z : Nat) (e : PeerClaim) (prompt : Bool) :
    (s.holdHeard z e prompt).micros = s.micros ∧ (s.holdHeard z e prompt).supplied = s.supplied ∧
    (s.holdHeard z e prompt).ctl = s.ctl ∧ (s.holdHeard z e prompt).freeCount = s.freeCount ∧
    (s.holdHeard z e prompt).pending = s.pending := by simp only [State.holdHeard]; (repeat' split) <;> simp

@[simp] theorem State.takeHold_frame (s : State) (sender z urgency defer holdMs : Nat) :
    (s.takeHold sender z urgency defer holdMs).micros = s.micros ∧
    (s.takeHold sender z urgency defer holdMs).supplied = s.supplied ∧
    (s.takeHold sender z urgency defer holdMs).ctl = s.ctl ∧
    (s.takeHold sender z urgency defer holdMs).freeCount = s.freeCount ∧
    (s.takeHold sender z urgency defer holdMs).pending = s.pending := by simp only [State.takeHold]; split <;> simp

@[simp] theorem State.takeDrop_frame (s : State) (sender z : Nat) :
    (s.takeDrop sender z).micros = s.micros ∧ (s.takeDrop sender z).supplied = s.supplied ∧
    (s.takeDrop sender z).ctl = s.ctl ∧ (s.takeDrop sender z).bay = s.bay ∧ (s.takeDrop sender z).image = s.image ∧
    (s.takeDrop sender z).seq = s.seq ∧ (s.takeDrop sender z).pub = s.pub ∧ (s.takeDrop sender z).port = s.port ∧
    (s.takeDrop sender z).freeCount = s.freeCount ∧
    (s.takeDrop sender z).pending = s.pending := by simp [State.takeDrop]

@[simp] theorem State.takeYield_frame (s : State) (sender z urgency : Nat) :
    (s.takeYield sender z urgency).micros = s.micros ∧ (s.takeYield sender z urgency).supplied = s.supplied ∧
    (s.takeYield sender z urgency).ctl = s.ctl ∧ (s.takeYield sender z urgency).freeCount = s.freeCount ∧
    (s.takeYield sender z urgency).pending = s.pending := by simp only [State.takeYield]; split <;> simp

@[simp] theorem State.armProbe_frame (s : State) :
    s.armProbe.micros = s.micros ∧ s.armProbe.supplied = s.supplied ∧ s.armProbe.ctl = s.ctl ∧
    s.armProbe.bay = s.bay ∧ s.armProbe.image = s.image ∧ s.armProbe.claims = s.claims ∧ s.armProbe.seq = s.seq ∧
    s.armProbe.pub = s.pub ∧ s.armProbe.port = s.port ∧ s.armProbe.freeCount = s.freeCount ∧
    s.armProbe.pending = s.pending := by simp [State.armProbe]

@[simp] theorem State.enterMuted_frame (s : State) (kind : FaultKind) :
    (s.enterMuted kind).micros = s.micros ∧ (s.enterMuted kind).supplied = s.supplied ∧
    (s.enterMuted kind).ctl = s.ctl ∧ (s.enterMuted kind).bay = s.bay ∧ (s.enterMuted kind).image = s.image ∧
    (s.enterMuted kind).freeCount = s.freeCount ∧
    (s.enterMuted kind).pending = s.pending := by simp [State.enterMuted]

@[simp] theorem State.probeDropped_frame (s : State) (h : InHand) :
    (s.probeDropped h).micros = s.micros ∧ (s.probeDropped h).supplied = s.supplied ∧ (s.probeDropped h).ctl = s.ctl ∧
    (s.probeDropped h).bay = s.bay ∧ (s.probeDropped h).image = s.image ∧ (s.probeDropped h).freeCount = s.freeCount ∧
    (s.probeDropped h).pending = s.pending := by simp only [State.probeDropped]; split <;> simp

@[simp] theorem State.dropFrame_frame (s : State) (h : InHand) :
    (s.dropFrame h).micros = s.micros ∧ (s.dropFrame h).supplied = s.supplied ∧ (s.dropFrame h).ctl = s.ctl ∧
    (s.dropFrame h).bay = s.bay ∧ (s.dropFrame h).image = s.image ∧ (s.dropFrame h).freeCount = s.freeCount ∧
    (s.dropFrame h).pending = s.pending := by simp only [State.dropFrame]; split <;> simp

@[simp] theorem State.beginAttempt_frame (s : State) :
    s.beginAttempt.micros = s.micros ∧ s.beginAttempt.supplied = s.supplied ∧ s.beginAttempt.ctl = s.ctl ∧
    s.beginAttempt.bay = s.bay ∧ s.beginAttempt.image = s.image ∧ s.beginAttempt.claims = s.claims ∧
    s.beginAttempt.seq = s.seq ∧ s.beginAttempt.pub = s.pub ∧ s.beginAttempt.port = s.port ∧
    s.beginAttempt.freeCount = s.freeCount ∧
    s.beginAttempt.pending = s.pending := by simp only [State.beginAttempt]; (repeat' split) <;> simp

@[simp] theorem State.attemptFailed_frame (s : State) (collided : Bool) :
    (s.attemptFailed collided).micros = s.micros ∧ (s.attemptFailed collided).supplied = s.supplied ∧
    (s.attemptFailed collided).ctl = s.ctl ∧ (s.attemptFailed collided).bay = s.bay ∧
    (s.attemptFailed collided).image = s.image ∧ (s.attemptFailed collided).freeCount = s.freeCount ∧
    (s.attemptFailed collided).pending = s.pending := by simp only [State.attemptFailed]; (repeat' split) <;> simp

@[simp] theorem State.frameSent_frame (s : State) (h : InHand) :
    (s.frameSent h).micros = s.micros ∧ (s.frameSent h).supplied = s.supplied ∧ (s.frameSent h).ctl = s.ctl ∧
    (s.frameSent h).bay = s.bay ∧ (s.frameSent h).image = s.image ∧ (s.frameSent h).claims = s.claims ∧
    (s.frameSent h).seq = s.seq ∧ (s.frameSent h).freeCount = s.freeCount ∧
    (s.frameSent h).pending = s.pending := by simp only [State.frameSent]; split <;> simp

@[simp] theorem State.attemptSent_frame (s : State) :
    s.attemptSent.micros = s.micros ∧ s.attemptSent.supplied = s.supplied ∧ s.attemptSent.ctl = s.ctl ∧
    s.attemptSent.bay = s.bay ∧ s.attemptSent.image = s.image ∧ s.attemptSent.claims = s.claims ∧
    s.attemptSent.seq = s.seq ∧ s.attemptSent.freeCount = s.freeCount ∧
    s.attemptSent.pending = s.pending := by simp only [State.attemptSent]; split <;> simp

@[simp] theorem State.mediumTurnsBusy_frame (s : State) :
    s.mediumTurnsBusy.micros = s.micros ∧ s.mediumTurnsBusy.supplied = s.supplied ∧ s.mediumTurnsBusy.ctl = s.ctl ∧
    s.mediumTurnsBusy.bay = s.bay ∧ s.mediumTurnsBusy.image = s.image ∧ s.mediumTurnsBusy.claims = s.claims ∧
    s.mediumTurnsBusy.seq = s.seq ∧ s.mediumTurnsBusy.pub = s.pub ∧ s.mediumTurnsBusy.port = s.port ∧
    s.mediumTurnsBusy.freeCount = s.freeCount ∧
    s.mediumTurnsBusy.pending = s.pending := by simp only [State.mediumTurnsBusy]; split <;> simp

@[simp] theorem State.mediumTurnsIdle_frame (s : State) :
    s.mediumTurnsIdle.micros = s.micros ∧ s.mediumTurnsIdle.supplied = s.supplied ∧ s.mediumTurnsIdle.ctl = s.ctl ∧
    s.mediumTurnsIdle.bay = s.bay ∧ s.mediumTurnsIdle.image = s.image ∧ s.mediumTurnsIdle.claims = s.claims ∧
    s.mediumTurnsIdle.seq = s.seq ∧ s.mediumTurnsIdle.pub = s.pub ∧ s.mediumTurnsIdle.port = s.port ∧
    s.mediumTurnsIdle.freeCount = s.freeCount ∧
    s.mediumTurnsIdle.pending = s.pending := by simp only [State.mediumTurnsIdle]; split <;> simp

@[simp] theorem State.duplicate_frame (s : State) :
    s.duplicate.micros = s.micros ∧ s.duplicate.supplied = s.supplied ∧ s.duplicate.ctl = s.ctl ∧
    s.duplicate.bay = s.bay ∧ s.duplicate.image = s.image ∧ s.duplicate.freeCount = s.freeCount ∧
    s.duplicate.pending = s.pending := by simp only [State.duplicate]; split <;> simp

@[simp] theorem State.dispatch_frame (s : State) (f : Frame) :
    (s.dispatch f).micros = s.micros ∧ (s.dispatch f).supplied = s.supplied ∧ (s.dispatch f).ctl = s.ctl ∧
    (s.dispatch f).freeCount = s.freeCount ∧
    (s.dispatch f).pending = s.pending := by simp only [State.dispatch]; split <;> simp

@[simp] theorem State.receive_frame (s : State) (f : Frame) :
    (s.receive f).micros = s.micros ∧ (s.receive f).supplied = s.supplied ∧ (s.receive f).ctl = s.ctl ∧
    (s.receive f).freeCount = s.freeCount ∧
    (s.receive f).pending = s.pending := by simp only [State.receive]; (repeat' split) <;> simp

@[simp] theorem State.probeExpiry_frame (s : State) :
    s.probeExpiry.micros = s.micros ∧ s.probeExpiry.supplied = s.supplied ∧ s.probeExpiry.ctl = s.ctl ∧
    s.probeExpiry.bay = s.bay ∧ s.probeExpiry.image = s.image ∧ s.probeExpiry.claims = s.claims ∧
    s.probeExpiry.seq = s.seq ∧ s.probeExpiry.port = s.port ∧ s.probeExpiry.freeCount = s.freeCount ∧
    s.probeExpiry.pending = s.pending := by simp only [State.probeExpiry]; (repeat' split) <;> simp

@[simp] theorem State.clearLink_frame (s : State) :
    s.clearLink.micros = s.micros ∧ s.clearLink.supplied = s.supplied ∧ s.clearLink.ctl = s.ctl ∧
    s.clearLink.bay = s.bay ∧ s.clearLink.image = s.image ∧ s.clearLink.claims = s.claims ∧ s.clearLink.seq = s.seq ∧
    s.clearLink.port = s.port ∧ s.clearLink.freeCount = s.freeCount ∧
    s.clearLink.pending = s.pending := by simp only [State.clearLink]; split <;> simp

@[simp] theorem State.filterSelector_frame (s : State) :
    s.filterSelector.micros = s.micros ∧ s.filterSelector.supplied = s.supplied ∧ s.filterSelector.ctl = s.ctl ∧
    s.filterSelector.image = s.image ∧ s.filterSelector.pub = s.pub ∧ s.filterSelector.freeCount = s.freeCount ∧
    s.filterSelector.pending = s.pending := by simp only [State.filterSelector]; (repeat' split) <;> simp

end Sys2Proof.Machine
end

