-- ==== Sys2Proof/Laws/Keeps.lean ====
section
/-! SUPPORT. Inside the blocks that an operation does change: the fields it leaves as they are. -/
namespace Sys2Proof.Machine

@[simp] theorem State.mapPoint_keeps (s : State) (id : Nat) (f : LocalPoint → LocalPoint) :
    (s.mapPoint id f).bay.lines = s.bay.lines ∧
    (s.mapPoint id f).bay.selector = s.bay.selector := by simp [State.mapPoint]

@[simp] theorem State.mapEntry_keeps (s : State) (id : Nat) (f : PointEntry → PointEntry) :
    (s.mapEntry id f).image.peers = s.image.peers := by simp [State.mapEntry]

@[simp] theorem State.mapActive_keeps (s : State) (f : Program → Program) :
    (s.mapActive f).seq.nextHandle = s.seq.nextHandle := by simp [State.mapActive]

@[simp] theorem State.event_keeps (s : State) (b : EventBody) :
    (s.event b).port.replies = s.port.replies ∧ (s.event b).port.inHand = s.port.inHand ∧
    (s.event b).port.waiting = s.port.waiting := by simp only [State.event]; split <;> simp

@[simp] theorem State.offerCapture_keeps (s : State) (c : Capture) :
    (s.offerCapture c).port.replies = s.port.replies ∧ (s.offerCapture c).port.inHand = s.port.inHand ∧
    (s.offerCapture c).port.waiting = s.port.waiting := by simp only [State.offerCapture]; split <;> simp

@[simp] theorem tick_keeps (s : State) :
    (tick s).link.mode = s.link.mode ∧ (tick s).link.dup = s.link.dup ∧ (tick s).link.probeTimer = s.link.probeTimer ∧
    (tick s).link.mediumBusy = s.link.mediumBusy ∧
    (tick s).link.rxEcho = s.link.rxEcho := by simp only [tick]; split <;> simp

@[simp] theorem State.takeHead_keeps (s : State) :
    s.takeHead.link.mode = s.link.mode ∧ s.takeHead.link.dup = s.link.dup ∧
    s.takeHead.link.probeTimer = s.link.probeTimer ∧ s.takeHead.link.mediumBusy = s.link.mediumBusy ∧
    s.takeHead.link.rxEcho = s.link.rxEcho := by simp only [State.takeHead]; split <;> simp

@[simp] theorem State.takeInHand_keeps (s : State) :
    s.takeInHand.link.mode = s.link.mode ∧ s.takeInHand.link.dup = s.link.dup ∧
    s.takeInHand.link.probeTimer = s.link.probeTimer ∧ s.takeInHand.link.mediumBusy = s.link.mediumBusy ∧
    s.takeInHand.link.rxEcho = s.link.rxEcho := by simp only [State.takeInHand]; split <;> simp

@[simp] theorem State.offer_keeps (s : State) (b : FrameBody) :
    (s.offer b).link.mode = s.link.mode ∧ (s.offer b).link.dup = s.link.dup ∧
    (s.offer b).link.probeTimer = s.link.probeTimer ∧ (s.offer b).link.mediumBusy = s.link.mediumBusy ∧
    (s.offer b).link.rxEcho = s.link.rxEcho := by simp only [State.offer]; split <;> simp

@[simp] theorem State.restartSchedule_keeps (s : State) :
    s.restartSchedule.link.mode = s.link.mode ∧ s.restartSchedule.link.dup = s.link.dup ∧
    s.restartSchedule.link.probeTimer = s.link.probeTimer ∧ s.restartSchedule.link.mediumBusy = s.link.mediumBusy ∧
    s.restartSchedule.link.rxEcho = s.link.rxEcho := by simp only [State.restartSchedule]; split <;> simp

@[simp] theorem State.countState_keeps (s : State) (n : StateNo) :
    (s.countState n).link.mode = s.link.mode ∧ (s.countState n).link.dup = s.link.dup ∧
    (s.countState n).link.probeTimer = s.link.probeTimer ∧ (s.countState n).link.mediumBusy = s.link.mediumBusy ∧
    (s.countState n).link.rxEcho = s.link.rxEcho := by simp [State.countState]

@[simp] theorem State.publishChange_keeps (s : State) :
    s.publishChange.link.mode = s.link.mode ∧ s.publishChange.link.dup = s.link.dup ∧
    s.publishChange.link.probeTimer = s.link.probeTimer ∧ s.publishChange.link.mediumBusy = s.link.mediumBusy ∧
    s.publishChange.link.rxEcho = s.link.rxEcho := by simp only [State.publishChange]; split <;> simp

@[simp] theorem State.publishStart_keeps (s : State) :
    s.publishStart.link.mode = s.link.mode ∧ s.publishStart.link.dup = s.link.dup ∧
    s.publishStart.link.probeTimer = s.link.probeTimer ∧ s.publishStart.link.mediumBusy = s.link.mediumBusy ∧
    s.publishStart.link.rxEcho = s.link.rxEcho := by simp [State.publishStart]

@[simp] theorem State.publishDue_keeps (s : State) :
    s.publishDue.link.mode = s.link.mode ∧ s.publishDue.link.dup = s.link.dup ∧
    s.publishDue.link.probeTimer = s.link.probeTimer ∧ s.publishDue.link.mediumBusy = s.link.mediumBusy ∧
    s.publishDue.link.rxEcho = s.link.rxEcho := by simp [State.publishDue]

@[simp] theorem State.probeSent_keeps (s : State) (n : StateNo) :
    (s.probeSent n).link.mode = s.link.mode ∧ (s.probeSent n).link.dup = s.link.dup ∧
    (s.probeSent n).link.probeTimer = s.link.probeTimer ∧ (s.probeSent n).link.mediumBusy = s.link.mediumBusy ∧
    (s.probeSent n).link.rxEcho = s.link.rxEcho := by simp only [State.probeSent]; split <;> simp

@[simp] theorem State.zoneMovement_keeps (s : State) (id : Nat) :
    (s.zoneMovement id).image.peers = s.image.peers := by simp [State.zoneMovement]

@[simp] theorem State.localUpdate_keeps (s : State) (id : Nat) (v : Option PointValue) (mark : Bool) :
    (s.localUpdate id v mark).link.mode = s.link.mode ∧ (s.localUpdate id v mark).link.dup = s.link.dup ∧
    (s.localUpdate id v mark).link.probeTimer = s.link.probeTimer ∧
    (s.localUpdate id v mark).link.mediumBusy = s.link.mediumBusy ∧
    (s.localUpdate id v mark).link.rxEcho = s.link.rxEcho ∧
    (s.localUpdate id v mark).image.peers = s.image.peers := by simp only [State.localUpdate]; (repeat' split) <;> simp

@[simp] theorem State.handOver_keeps (s : State) (id : Nat) :
    (s.handOver id).link.mode = s.link.mode ∧ (s.handOver id).link.dup = s.link.dup ∧
    (s.handOver id).link.probeTimer = s.link.probeTimer ∧ (s.handOver id).link.mediumBusy = s.link.mediumBusy ∧
    (s.handOver id).link.rxEcho = s.link.rxEcho ∧
    (s.handOver id).image.peers = s.image.peers := by simp only [State.handOver]; split <;> simp

@[simp] theorem State.revisionCheck_keeps (s : State) (sender revision : Nat) :
    (s.revisionCheck sender revision).port.replies = s.port.replies ∧
    (s.revisionCheck sender revision).port.inHand = s.port.inHand ∧
    (s.revisionCheck sender revision).port.waiting = s.port.waiting := by simp only [State.revisionCheck]; (repeat' split) <;> simp

@[simp] theorem zoneMovements_keeps (es : List PointEntry) (s : State) :
    (zoneMovements es s).image.peers = s.image.peers := by
  induction es generalizing s with
  | nil => simp [zoneMovements]
  | cons e rest ih => simp [zoneMovements, ih]

@[simp] theorem State.acceptNew_keeps (s : State) (p : PeerRecord) (n : StateNo) (r : Byte) (hold : Nat) (items : List Item) :
    (s.acceptNew p n r hold items).port.replies = s.port.replies ∧
    (s.acceptNew p n r hold items).port.inHand = s.port.inHand ∧
    (s.acceptNew p n r hold items).port.waiting = s.port.waiting := by simp only [State.acceptNew]; split <;> simp

@[simp] theorem State.acceptWithdrawal_keeps (s : State) (p : PeerRecord) (n : StateNo) (r : Byte) :
    (s.acceptWithdrawal p n r).port.replies = s.port.replies ∧
    (s.acceptWithdrawal p n r).port.inHand = s.port.inHand ∧
    (s.acceptWithdrawal p n r).port.waiting = s.port.waiting := by simp only [State.acceptWithdrawal]; split <;> simp

@[simp] theorem State.takeBulletin_keeps (s : State) (sender : Nat) (n : StateNo) (r : Byte) (hold : Nat) (items : List Item) :
    (s.takeBulletin sender n r hold items).port.replies = s.port.replies ∧
    (s.takeBulletin sender n r hold items).port.inHand = s.port.inHand ∧
    (s.takeBulletin sender n r hold items).port.waiting = s.port.waiting := by simp only [State.takeBulletin]; (repeat' split) <;> simp

@[simp] theorem State.expirePeer_keeps (s : State) (unit : Nat) :
    (s.expirePeer unit).port.replies = s.port.replies ∧ (s.expirePeer unit).port.inHand = s.port.inHand ∧
    (s.expirePeer unit).port.waiting = s.port.waiting := by simp only [State.expirePeer]; (repeat' split) <;> simp

@[simp] theorem State.dropDrive_keeps (s : State) :
    s.dropDrive.bay.lines = s.bay.lines ∧ s.dropDrive.bay.selector = s.bay.selector := by simp [State.dropDrive]

@[simp] theorem State.reportDrive_keeps (s : State) (r : DriveReport) :
    (s.reportDrive r).bay.lines = s.bay.lines ∧
    (s.reportDrive r).bay.selector = s.bay.selector := by simp [State.reportDrive]

@[simp] theorem State.markSuspect_keeps (s : State) (id : Nat) :
    (s.markSuspect id).bay.lines = s.bay.lines ∧
    (s.markSuspect id).bay.selector = s.bay.selector := by simp [State.markSuspect]

@[simp] theorem State.failSwitch_keeps (s : State) (kind : FaultKind) (id : Nat) (order : Option (Nat × Nat)) :
    (s.failSwitch kind id order).port.replies = s.port.replies ∧
    (s.failSwitch kind id order).port.inHand = s.port.inHand ∧
    (s.failSwitch kind id order).port.waiting = s.port.waiting ∧
    (s.failSwitch kind id order).link.mode = s.link.mode ∧ (s.failSwitch kind id order).link.dup = s.link.dup ∧
    (s.failSwitch kind id order).link.probeTimer = s.link.probeTimer ∧
    (s.failSwitch kind id order).link.mediumBusy = s.link.mediumBusy ∧
    (s.failSwitch kind id order).link.rxEcho = s.link.rxEcho ∧
    (s.failSwitch kind id order).image.peers = s.image.peers ∧ (s.failSwitch kind id order).bay.lines = s.bay.lines ∧
    (s.failSwitch kind id order).bay.selector = s.bay.selector := by simp only [State.failSwitch]; split <;> simp

@[simp] theorem State.driveOrder_keeps (s : State) (id : Nat) (t : Target) (handle step : Nat) :
    (s.driveOrder id t handle step).port.replies = s.port.replies ∧
    (s.driveOrder id t handle step).port.inHand = s.port.inHand ∧
    (s.driveOrder id t handle step).port.waiting = s.port.waiting ∧
    (s.driveOrder id t handle step).link.mode = s.link.mode ∧ (s.driveOrder id t handle step).link.dup = s.link.dup ∧
    (s.driveOrder id t handle step).link.probeTimer = s.link.probeTimer ∧
    (s.driveOrder id t handle step).link.mediumBusy = s.link.mediumBusy ∧
    (s.driveOrder id t handle step).link.rxEcho = s.link.rxEcho ∧
    (s.driveOrder id t handle step).image.peers = s.image.peers ∧
    (s.driveOrder id t handle step).bay.lines = s.bay.lines ∧
    (s.driveOrder id t handle step).bay.selector = s.bay.selector := by simp only [State.driveOrder]; split <;> simp

@[simp] theorem State.completeDrive_keeps (s : State) (id : Nat) :
    (s.completeDrive id).link.mode = s.link.mode ∧ (s.completeDrive id).link.dup = s.link.dup ∧
    (s.completeDrive id).link.probeTimer = s.link.probeTimer ∧
    (s.completeDrive id).link.mediumBusy = s.link.mediumBusy ∧ (s.completeDrive id).link.rxEcho = s.link.rxEcho ∧
    (s.completeDrive id).image.peers = s.image.peers ∧ (s.completeDrive id).bay.lines = s.bay.lines ∧
    (s.completeDrive id).bay.selector = s.bay.selector := by simp [State.completeDrive]

@[simp] theorem State.supervise_keeps (s : State) (d : DriveRecord) (v : PointValue) :
    (s.supervise d v).port.replies = s.port.replies ∧ (s.supervise d v).port.inHand = s.port.inHand ∧
    (s.supervise d v).port.waiting = s.port.waiting ∧ (s.supervise d v).link.mode = s.link.mode ∧
    (s.supervise d v).link.dup = s.link.dup ∧ (s.supervise d v).link.probeTimer = s.link.probeTimer ∧
    (s.supervise d v).link.mediumBusy = s.link.mediumBusy ∧ (s.supervise d v).link.rxEcho = s.link.rxEcho ∧
    (s.supervise d v).image.peers = s.image.peers ∧ (s.supervise d v).bay.lines = s.bay.lines ∧
    (s.supervise d v).bay.selector = s.bay.selector := by simp only [State.supervise]; (repeat' split) <;> simp

@[simp] theorem State.stuckRule_keeps (s : State) (id : Nat) (v : PointValue) :
    (s.stuckRule id v).bay.lines = s.bay.lines ∧
    (s.stuckRule id v).bay.selector = s.bay.selector := by simp [State.stuckRule]

@[simp] theorem State.uncommanded_keeps (s : State) (id : Nat) (old : Option PointValue) (v : PointValue) :
    (s.uncommanded id old v).port.replies = s.port.replies ∧ (s.uncommanded id old v).port.inHand = s.port.inHand ∧
    (s.uncommanded id old v).port.waiting = s.port.waiting := by simp only [State.uncommanded]; split <;> simp

@[simp] theorem State.localChange_keeps (s : State) (id : Nat) (old : Option PointValue) (v : PointValue) :
    (s.localChange id old v).port.replies = s.port.replies ∧ (s.localChange id old v).port.inHand = s.port.inHand ∧
    (s.localChange id old v).port.waiting = s.port.waiting ∧ (s.localChange id old v).link.mode = s.link.mode ∧
    (s.localChange id old v).link.dup = s.link.dup ∧ (s.localChange id old v).link.probeTimer = s.link.probeTimer ∧
    (s.localChange id old v).link.mediumBusy = s.link.mediumBusy ∧
    (s.localChange id old v).link.rxEcho = s.link.rxEcho ∧ (s.localChange id old v).image.peers = s.image.peers ∧
    (s.localChange id old v).bay.lines = s.bay.lines ∧
    (s.localChange id old v).bay.selector = s.bay.selector := by simp only [State.localChange]; (repeat' split) <;> simp

@[simp] theorem State.filterPoint_keeps (s : State) (id : Nat) :
    (s.filterPoint id).port.replies = s.port.replies ∧ (s.filterPoint id).port.inHand = s.port.inHand ∧
    (s.filterPoint id).port.waiting = s.port.waiting ∧ (s.filterPoint id).link.mode = s.link.mode ∧
    (s.filterPoint id).link.dup = s.link.dup ∧ (s.filterPoint id).link.probeTimer = s.link.probeTimer ∧
    (s.filterPoint id).link.mediumBusy = s.link.mediumBusy ∧ (s.filterPoint id).link.rxEcho = s.link.rxEcho ∧
    (s.filterPoint id).image.peers = s.image.peers ∧ (s.filterPoint id).bay.lines = s.bay.lines ∧
    (s.filterPoint id).bay.selector = s.bay.selector := by simp only [State.filterPoint]; (repeat' split) <;> simp

@[simp] theorem State.stuckExpiry_keeps (s : State) (id : Nat) :
    (s.stuckExpiry id).port.replies = s.port.replies ∧ (s.stuckExpiry id).port.inHand = s.port.inHand ∧
    (s.stuckExpiry id).port.waiting = s.port.waiting ∧ (s.stuckExpiry id).link.mode = s.link.mode ∧
    (s.stuckExpiry id).link.dup = s.link.dup ∧ (s.stuckExpiry id).link.probeTimer = s.link.probeTimer ∧
    (s.stuckExpiry id).link.mediumBusy = s.link.mediumBusy ∧ (s.stuckExpiry id).link.rxEcho = s.link.rxEcho ∧
    (s.stuckExpiry id).image.peers = s.image.peers ∧ (s.stuckExpiry id).bay.lines = s.bay.lines ∧
    (s.stuckExpiry id).bay.selector = s.bay.selector := by simp only [State.stuckExpiry]; (repeat' split) <;> simp

@[simp] theorem State.runExpiry_keeps (s : State) :
    s.runExpiry.port.replies = s.port.replies ∧ s.runExpiry.port.inHand = s.port.inHand ∧
    s.runExpiry.port.waiting = s.port.waiting ∧ s.runExpiry.link.mode = s.link.mode ∧
    s.runExpiry.link.dup = s.link.dup ∧ s.runExpiry.link.probeTimer = s.link.probeTimer ∧
    s.runExpiry.link.mediumBusy = s.link.mediumBusy ∧ s.runExpiry.link.rxEcho = s.link.rxEcho ∧
    s.runExpiry.image.peers = s.image.peers ∧ s.runExpiry.bay.lines = s.bay.lines ∧
    s.runExpiry.bay.selector = s.bay.selector := by simp only [State.runExpiry]; (repeat' split) <;> simp

@[simp] theorem State.clearMark_keeps (s : State) (id : Nat) :
    (s.clearMark id).port.replies = s.port.replies ∧ (s.clearMark id).port.inHand = s.port.inHand ∧
    (s.clearMark id).port.waiting = s.port.waiting ∧ (s.clearMark id).link.mode = s.link.mode ∧
    (s.clearMark id).link.dup = s.link.dup ∧ (s.clearMark id).link.probeTimer = s.link.probeTimer ∧
    (s.clearMark id).link.mediumBusy = s.link.mediumBusy ∧ (s.clearMark id).link.rxEcho = s.link.rxEcho ∧
    (s.clearMark id).image.peers = s.image.peers ∧ (s.clearMark id).bay.lines = s.bay.lines ∧
    (s.clearMark id).bay.selector = s.bay.selector := by simp [State.clearMark]

@[simp] theorem State.askZone_keeps (s : State) (z : Nat) :
    (s.askZone z).link.mode = s.link.mode ∧ (s.askZone z).link.dup = s.link.dup ∧
    (s.askZone z).link.probeTimer = s.link.probeTimer ∧ (s.askZone z).link.mediumBusy = s.link.mediumBusy ∧
    (s.askZone z).link.rxEcho = s.link.rxEcho := by simp [State.askZone]

@[simp] theorem State.holdZone_keeps (s : State) (z : Nat) :
    (s.holdZone z).link.mode = s.link.mode ∧ (s.holdZone z).link.dup = s.link.dup ∧
    (s.holdZone z).link.probeTimer = s.link.probeTimer ∧ (s.holdZone z).link.mediumBusy = s.link.mediumBusy ∧
    (s.holdZone z).link.rxEcho = s.link.rxEcho := by simp [State.holdZone]

@[simp] theorem State.dropZone_keeps (s : State) (z : Nat) :
    (s.dropZone z).link.mode = s.link.mode ∧ (s.dropZone z).link.dup = s.link.dup ∧
    (s.dropZone z).link.probeTimer = s.link.probeTimer ∧ (s.dropZone z).link.mediumBusy = s.link.mediumBusy ∧
    (s.dropZone z).link.rxEcho = s.link.rxEcho := by simp only [State.dropZone]; split <;> simp

@[simp] theorem State.dropZones_keeps (zs : List Nat) (s : State) :
    (State.dropZones zs s).link.mode = s.link.mode ∧ (State.dropZones zs s).link.dup = s.link.dup ∧
    (State.dropZones zs s).link.probeTimer = s.link.probeTimer ∧
    (State.dropZones zs s).link.mediumBusy = s.link.mediumBusy ∧
    (State.dropZones zs s).link.rxEcho = s.link.rxEcho := by
  induction zs generalizing s with
  | nil => simp [State.dropZones]
  | cons z rest ih => simp [State.dropZones, ih]

@[simp] theorem State.claimOrder_keeps (s : State) (zones : List Nat) :
    (s.claimOrder zones).link.mode = s.link.mode ∧ (s.claimOrder zones).link.dup = s.link.dup ∧
    (s.claimOrder zones).link.probeTimer = s.link.probeTimer ∧
    (s.claimOrder zones).link.mediumBusy = s.link.mediumBusy ∧
    (s.claimOrder zones).link.rxEcho = s.link.rxEcho := by simp only [State.claimOrder]; split <;> simp

@[simp] theorem State.loseWindow_keeps (s : State) (z : Nat) :
    (s.loseWindow z).seq.nextHandle = s.seq.nextHandle := by simp [State.loseWindow]

@[simp] theorem State.retest_keeps (s : State) (z : Nat) :
    (s.retest z).link.mode = s.link.mode ∧ (s.retest z).link.dup = s.link.dup ∧
    (s.retest z).link.probeTimer = s.link.probeTimer ∧ (s.retest z).link.mediumBusy = s.link.mediumBusy ∧
    (s.retest z).link.rxEcho = s.link.rxEcho := by simp only [State.retest]; split <;> simp

@[simp] theorem State.removeEntry_keeps (s : State) (z unit : Nat) (gone : PeerClaim → Bool) :
    (s.removeEntry z unit gone).link.mode = s.link.mode ∧ (s.removeEntry z unit gone).link.dup = s.link.dup ∧
    (s.removeEntry z unit gone).link.probeTimer = s.link.probeTimer ∧
    (s.removeEntry z unit gone).link.mediumBusy = s.link.mediumBusy ∧
    (s.removeEntry z unit gone).link.rxEcho = s.link.rxEcho := by simp only [State.removeEntry]; split <;> simp

@[simp] theorem State.secondAsk_keeps (s : State) (z : Nat) :
    (s.secondAsk z).link.mode = s.link.mode ∧ (s.secondAsk z).link.dup = s.link.dup ∧
    (s.secondAsk z).link.probeTimer = s.link.probeTimer ∧ (s.secondAsk z).link.mediumBusy = s.link.mediumBusy ∧
    (s.secondAsk z).link.rxEcho = s.link.rxEcho := by simp only [State.secondAsk]; (repeat' split) <;> simp

@[simp] theorem State.refreshZone_keeps (s : State) (z : Nat) :
    (s.refreshZone z).link.mode = s.link.mode ∧ (s.refreshZone z).link.dup = s.link.dup ∧
    (s.refreshZone z).link.probeTimer = s.link.probeTimer ∧ (s.refreshZone z).link.mediumBusy = s.link.mediumBusy ∧
    (s.refreshZone z).link.rxEcho = s.link.rxEcho := by simp only [State.refreshZone]; (repeat' split) <;> simp

@[simp] theorem State.setPhase_keeps (s : State) (ph : Phase) :
    (s.setPhase ph).seq.nextHandle = s.seq.nextHandle := by simp [State.setPhase]

@[simp] theorem State.endActive_keeps (s : State) (e : EndStatus) :
    (s.endActive e).port.replies = s.port.replies ∧ (s.endActive e).port.inHand = s.port.inHand ∧
    (s.endActive e).port.waiting = s.port.waiting ∧ (s.endActive e).link.mode = s.link.mode ∧
    (s.endActive e).link.dup = s.link.dup ∧ (s.endActive e).link.probeTimer = s.link.probeTimer ∧
    (s.endActive e).link.mediumBusy = s.link.mediumBusy ∧ (s.endActive e).link.rxEcho = s.link.rxEcho ∧
    (s.endActive e).seq.nextHandle = s.seq.nextHandle := by simp only [State.endActive]; split <;> simp

@[simp] theorem endQueued_keeps (reason : Reason) (ps : List Program) (s : State) :
    (endQueued reason ps s).port.replies = s.port.replies ∧ (endQueued reason ps s).port.inHand = s.port.inHand ∧
    (endQueued reason ps s).port.waiting = s.port.waiting := by
  induction ps generalizing s with
  | nil => simp [endQueued]
  | cons p rest ih => simp [endQueued, ih]

@[simp] theorem State.abortQueue_keeps (s : State) (reason : Reason) :
    (s.abortQueue reason).port.replies = s.port.replies ∧ (s.abortQueue reason).port.inHand = s.port.inHand ∧
    (s.abortQueue reason).port.waiting = s.port.waiting ∧
    (s.abortQueue reason).seq.nextHandle = s.seq.nextHandle := by simp [State.abortQueue]

@[simp] theorem State.beginDrive_keeps (s : State) (st : Step) :
    (s.beginDrive st).port.replies = s.port.replies ∧ (s.beginDrive st).port.inHand = s.port.inHand ∧
    (s.beginDrive st).port.waiting = s.port.waiting ∧ (s.beginDrive st).link.mode = s.link.mode ∧
    (s.beginDrive st).link.dup = s.link.dup ∧ (s.beginDrive st).link.probeTimer = s.link.probeTimer ∧
    (s.beginDrive st).link.mediumBusy = s.link.mediumBusy ∧ (s.beginDrive st).link.rxEcho = s.link.rxEcho ∧
    (s.beginDrive st).image.peers = s.image.peers ∧ (s.beginDrive st).bay.lines = s.bay.lines ∧
    (s.beginDrive st).bay.selector = s.bay.selector ∧
    (s.beginDrive st).seq.nextHandle = s.seq.nextHandle := by simp [State.beginDrive]

@[simp] theorem runSteps_keeps (sts : List Step) (s : State) :
    (runSteps sts s).port.replies = s.port.replies ∧ (runSteps sts s).port.inHand = s.port.inHand ∧
    (runSteps sts s).port.waiting = s.port.waiting ∧ (runSteps sts s).link.mode = s.link.mode ∧
    (runSteps sts s).link.dup = s.link.dup ∧ (runSteps sts s).link.probeTimer = s.link.probeTimer ∧
    (runSteps sts s).link.mediumBusy = s.link.mediumBusy ∧ (runSteps sts s).link.rxEcho = s.link.rxEcho ∧
    (runSteps sts s).image.peers = s.image.peers ∧ (runSteps sts s).bay.lines = s.bay.lines ∧
    (runSteps sts s).bay.selector = s.bay.selector ∧ (runSteps sts s).seq.nextHandle = s.seq.nextHandle := by
  induction sts generalizing s with
  | nil => simp [runSteps]
  | cons st rest ih => simp only [runSteps]; (repeat' split) <;> simp [ih]

@[simp] theorem State.testGuard_keeps (s : State) :
    s.testGuard.port.replies = s.port.replies ∧ s.testGuard.port.inHand = s.port.inHand ∧
    s.testGuard.port.waiting = s.port.waiting ∧ s.testGuard.link.mode = s.link.mode ∧
    s.testGuard.link.dup = s.link.dup ∧ s.testGuard.link.probeTimer = s.link.probeTimer ∧
    s.testGuard.link.mediumBusy = s.link.mediumBusy ∧ s.testGuard.link.rxEcho = s.link.rxEcho ∧
    s.testGuard.image.peers = s.image.peers ∧ s.testGuard.bay.lines = s.bay.lines ∧
    s.testGuard.bay.selector = s.bay.selector ∧
    s.testGuard.seq.nextHandle = s.seq.nextHandle := by simp [State.testGuard]

@[simp] theorem State.enterGuard_keeps (s : State) :
    s.enterGuard.port.replies = s.port.replies ∧ s.enterGuard.port.inHand = s.port.inHand ∧
    s.enterGuard.port.waiting = s.port.waiting ∧ s.enterGuard.link.mode = s.link.mode ∧
    s.enterGuard.link.dup = s.link.dup ∧ s.enterGuard.link.probeTimer = s.link.probeTimer ∧
    s.enterGuard.link.mediumBusy = s.link.mediumBusy ∧ s.enterGuard.link.rxEcho = s.link.rxEcho ∧
    s.enterGuard.image.peers = s.image.peers ∧ s.enterGuard.bay.lines = s.bay.lines ∧
    s.enterGuard.bay.selector = s.bay.selector ∧
    s.enterGuard.seq.nextHandle = s.seq.nextHandle := by simp [State.enterGuard]

@[simp] theorem State.startClaiming_keeps (s : State) (zones : List Nat) :
    (s.startClaiming zones).port.replies = s.port.replies ∧ (s.startClaiming zones).port.inHand = s.port.inHand ∧
    (s.startClaiming zones).port.waiting = s.port.waiting ∧ (s.startClaiming zones).link.mode = s.link.mode ∧
    (s.startClaiming zones).link.dup = s.link.dup ∧ (s.startClaiming zones).link.probeTimer = s.link.probeTimer ∧
    (s.startClaiming zones).link.mediumBusy = s.link.mediumBusy ∧
    (s.startClaiming zones).link.rxEcho = s.link.rxEcho ∧ (s.startClaiming zones).image.peers = s.image.peers ∧
    (s.startClaiming zones).bay.lines = s.bay.lines ∧ (s.startClaiming zones).bay.selector = s.bay.selector ∧
    (s.startClaiming zones).seq.nextHandle = s.seq.nextHandle := by simp only [State.startClaiming]; split <;> simp

@[simp] theorem State.takeUpOne_keeps (s : State) (p : Program) (rest : List Program) :
    (s.takeUpOne p rest).port.replies = s.port.replies ∧ (s.takeUpOne p rest).port.inHand = s.port.inHand ∧
    (s.takeUpOne p rest).port.waiting = s.port.waiting ∧ (s.takeUpOne p rest).link.mode = s.link.mode ∧
    (s.takeUpOne p rest).link.dup = s.link.dup ∧ (s.takeUpOne p rest).link.probeTimer = s.link.probeTimer ∧
    (s.takeUpOne p rest).link.mediumBusy = s.link.mediumBusy ∧ (s.takeUpOne p rest).link.rxEcho = s.link.rxEcho ∧
    (s.takeUpOne p rest).image.peers = s.image.peers ∧ (s.takeUpOne p rest).bay.lines = s.bay.lines ∧
    (s.takeUpOne p rest).bay.selector = s.bay.selector ∧
    (s.takeUpOne p rest).seq.nextHandle = s.seq.nextHandle := by simp only [State.takeUpOne]; (repeat' split) <;> simp

@[simp] theorem takeUp_keeps (ps : List Program) (s : State) :
    (takeUp ps s).port.replies = s.port.replies ∧ (takeUp ps s).port.inHand = s.port.inHand ∧
    (takeUp ps s).port.waiting = s.port.waiting ∧ (takeUp ps s).link.mode = s.link.mode ∧
    (takeUp ps s).link.dup = s.link.dup ∧ (takeUp ps s).link.probeTimer = s.link.probeTimer ∧
    (takeUp ps s).link.mediumBusy = s.link.mediumBusy ∧ (takeUp ps s).link.rxEcho = s.link.rxEcho ∧
    (takeUp ps s).image.peers = s.image.peers ∧ (takeUp ps s).bay.lines = s.bay.lines ∧
    (takeUp ps s).bay.selector = s.bay.selector ∧ (takeUp ps s).seq.nextHandle = s.seq.nextHandle := by
  induction ps generalizing s with
  | nil => simp [takeUp]
  | cons p rest ih => simp only [takeUp]; split <;> simp [ih]

@[simp] theorem State.takeUpNext_keeps (s : State) :
    s.takeUpNext.port.replies = s.port.replies ∧ s.takeUpNext.port.inHand = s.port.inHand ∧
    s.takeUpNext.port.waiting = s.port.waiting ∧ s.takeUpNext.link.mode = s.link.mode ∧
    s.takeUpNext.link.dup = s.link.dup ∧ s.takeUpNext.link.probeTimer = s.link.probeTimer ∧
    s.takeUpNext.link.mediumBusy = s.link.mediumBusy ∧ s.takeUpNext.link.rxEcho = s.link.rxEcho ∧
    s.takeUpNext.image.peers = s.image.peers ∧ s.takeUpNext.bay.lines = s.bay.lines ∧
    s.takeUpNext.bay.selector = s.bay.selector ∧
    s.takeUpNext.seq.nextHandle = s.seq.nextHandle := by simp [State.takeUpNext]

@[simp] theorem State.finish_keeps (s : State) (e : EndStatus) :
    (s.finish e).port.replies = s.port.replies ∧ (s.finish e).port.inHand = s.port.inHand ∧
    (s.finish e).port.waiting = s.port.waiting ∧ (s.finish e).link.mode = s.link.mode ∧
    (s.finish e).link.dup = s.link.dup ∧ (s.finish e).link.probeTimer = s.link.probeTimer ∧
    (s.finish e).link.mediumBusy = s.link.mediumBusy ∧ (s.finish e).link.rxEcho = s.link.rxEcho ∧
    (s.finish e).image.peers = s.image.peers ∧ (s.finish e).bay.lines = s.bay.lines ∧
    (s.finish e).bay.selector = s.bay.selector ∧
    (s.finish e).seq.nextHandle = s.seq.nextHandle := by simp [State.finish]

@[simp] theorem State.enqueue_keeps (s : State) (urgency : Nat) (steps : List Step) :
    (s.enqueue urgency steps).port.replies = s.port.replies ∧ (s.enqueue urgency steps).port.inHand = s.port.inHand ∧
    (s.enqueue urgency steps).port.waiting = s.port.waiting ∧ (s.enqueue urgency steps).link.mode = s.link.mode ∧
    (s.enqueue urgency steps).link.dup = s.link.dup ∧ (s.enqueue urgency steps).link.probeTimer = s.link.probeTimer ∧
    (s.enqueue urgency steps).link.mediumBusy = s.link.mediumBusy ∧
    (s.enqueue urgency steps).link.rxEcho = s.link.rxEcho ∧ (s.enqueue urgency steps).image.peers = s.image.peers ∧
    (s.enqueue urgency steps).bay.lines = s.bay.lines ∧
    (s.enqueue urgency steps).bay.selector = s.bay.selector := by simp [State.enqueue]

@[simp] theorem State.giveBack_keeps (s : State) (cause : YieldCause) (y : YieldFrom) :
    (s.giveBack cause y).port.replies = s.port.replies ∧ (s.giveBack cause y).port.inHand = s.port.inHand ∧
    (s.giveBack cause y).port.waiting = s.port.waiting ∧ (s.giveBack cause y).link.mode = s.link.mode ∧
    (s.giveBack cause y).link.dup = s.link.dup ∧ (s.giveBack cause y).link.probeTimer = s.link.probeTimer ∧
    (s.giveBack cause y).link.mediumBusy = s.link.mediumBusy ∧ (s.giveBack cause y).link.rxEcho = s.link.rxEcho ∧
    (s.giveBack cause y).seq.nextHandle = s.seq.nextHandle := by simp only [State.giveBack]; split <;> simp

@[simp] theorem State.yieldZones_keeps (s : State) (cause : YieldCause) (y : YieldFrom) :
    (s.yieldZones cause y).port.replies = s.port.replies ∧ (s.yieldZones cause y).port.inHand = s.port.inHand ∧
    (s.yieldZones cause y).port.waiting = s.port.waiting ∧ (s.yieldZones cause y).link.mode = s.link.mode ∧
    (s.yieldZones cause y).link.dup = s.link.dup ∧ (s.yieldZones cause y).link.probeTimer = s.link.probeTimer ∧
    (s.yieldZones cause y).link.mediumBusy = s.link.mediumBusy ∧ (s.yieldZones cause y).link.rxEcho = s.link.rxEcho ∧
    (s.yieldZones cause y).image.peers = s.image.peers ∧ (s.yieldZones cause y).bay.lines = s.bay.lines ∧
    (s.yieldZones cause y).bay.selector = s.bay.selector ∧
    (s.yieldZones cause y).seq.nextHandle = s.seq.nextHandle := by simp only [State.yieldZones]; split <;> simp

@[simp] theorem State.nextStep_keeps (s : State) (yield : Option YieldFrom) :
    (s.nextStep yield).port.replies = s.port.replies ∧ (s.nextStep yield).port.inHand = s.port.inHand ∧
    (s.nextStep yield).port.waiting = s.port.waiting ∧ (s.nextStep yield).link.mode = s.link.mode ∧
    (s.nextStep yield).link.dup = s.link.dup ∧ (s.nextStep yield).link.probeTimer = s.link.probeTimer ∧
    (s.nextStep yield).link.mediumBusy = s.link.mediumBusy ∧ (s.nextStep yield).link.rxEcho = s.link.rxEcho ∧
    (s.nextStep yield).image.peers = s.image.peers ∧ (s.nextStep yield).bay.lines = s.bay.lines ∧
    (s.nextStep yield).bay.selector = s.bay.selector ∧
    (s.nextStep yield).seq.nextHandle = s.seq.nextHandle := by simp only [State.nextStep]; (repeat' split) <;> simp

@[simp] theorem State.stepEnd_keeps (s : State) (p : Program) (r : DriveReport) :
    (s.stepEnd p r).port.replies = s.port.replies ∧ (s.stepEnd p r).port.inHand = s.port.inHand ∧
    (s.stepEnd p r).port.waiting = s.port.waiting ∧ (s.stepEnd p r).link.mode = s.link.mode ∧
    (s.stepEnd p r).link.dup = s.link.dup ∧ (s.stepEnd p r).link.probeTimer = s.link.probeTimer ∧
    (s.stepEnd p r).link.mediumBusy = s.link.mediumBusy ∧ (s.stepEnd p r).link.rxEcho = s.link.rxEcho ∧
    (s.stepEnd p r).image.peers = s.image.peers ∧ (s.stepEnd p r).bay.lines = s.bay.lines ∧
    (s.stepEnd p r).bay.selector = s.bay.selector ∧
    (s.stepEnd p r).seq.nextHandle = s.seq.nextHandle := by simp only [State.stepEnd]; (repeat' split) <;> simp

@[simp] theorem State.takeReport_keeps (s : State) :
    s.takeReport.port.replies = s.port.replies ∧ s.takeReport.port.inHand = s.port.inHand ∧
    s.takeReport.port.waiting = s.port.waiting ∧ s.takeReport.link.mode = s.link.mode ∧
    s.takeReport.link.dup = s.link.dup ∧ s.takeReport.link.probeTimer = s.link.probeTimer ∧
    s.takeReport.link.mediumBusy = s.link.mediumBusy ∧ s.takeReport.link.rxEcho = s.link.rxEcho ∧
    s.takeReport.image.peers = s.image.peers ∧ s.takeReport.bay.lines = s.bay.lines ∧
    s.takeReport.bay.selector = s.bay.selector ∧
    s.takeReport.seq.nextHandle = s.seq.nextHandle := by simp only [State.takeReport]; (repeat' split) <;> simp

@[simp] theorem State.stopActive_keeps (s : State) (c : StopCause) :
    (s.stopActive c).port.replies = s.port.replies ∧ (s.stopActive c).port.inHand = s.port.inHand ∧
    (s.stopActive c).port.waiting = s.port.waiting ∧ (s.stopActive c).link.mode = s.link.mode ∧
    (s.stopActive c).link.dup = s.link.dup ∧ (s.stopActive c).link.probeTimer = s.link.probeTimer ∧
    (s.stopActive c).link.mediumBusy = s.link.mediumBusy ∧ (s.stopActive c).link.rxEcho = s.link.rxEcho ∧
    (s.stopActive c).seq.nextHandle = s.seq.nextHandle := by simp only [State.stopActive]; (repeat' split) <;> simp

@[simp] theorem State.localTakeover_keeps (s : State) :
    s.localTakeover.port.replies = s.port.replies ∧ s.localTakeover.port.inHand = s.port.inHand ∧
    s.localTakeover.port.waiting = s.port.waiting ∧ s.localTakeover.link.mode = s.link.mode ∧
    s.localTakeover.link.dup = s.link.dup ∧ s.localTakeover.link.probeTimer = s.link.probeTimer ∧
    s.localTakeover.link.mediumBusy = s.link.mediumBusy ∧ s.localTakeover.link.rxEcho = s.link.rxEcho ∧
    s.localTakeover.seq.nextHandle = s.seq.nextHandle := by simp [State.localTakeover]

@[simp] theorem State.programsMuted_keeps (s : State) :
    s.programsMuted.port.replies = s.port.replies ∧ s.programsMuted.port.inHand = s.port.inHand ∧
    s.programsMuted.port.waiting = s.port.waiting ∧ s.programsMuted.link.mode = s.link.mode ∧
    s.programsMuted.link.dup = s.link.dup ∧ s.programsMuted.link.probeTimer = s.link.probeTimer ∧
    s.programsMuted.link.mediumBusy = s.link.mediumBusy ∧ s.programsMuted.link.rxEcho = s.link.rxEcho ∧
    s.programsMuted.seq.nextHandle = s.seq.nextHandle := by simp [State.programsMuted]

@[simp] theorem State.cancel_keeps (s : State) (h : Nat) :
    (s.cancel h).port.replies = s.port.replies ∧ (s.cancel h).port.inHand = s.port.inHand ∧
    (s.cancel h).port.waiting = s.port.waiting ∧ (s.cancel h).link.mode = s.link.mode ∧
    (s.cancel h).link.dup = s.link.dup ∧ (s.cancel h).link.probeTimer = s.link.probeTimer ∧
    (s.cancel h).link.mediumBusy = s.link.mediumBusy ∧ (s.cancel h).link.rxEcho = s.link.rxEcho ∧
    (s.cancel h).image.peers = s.image.peers ∧ (s.cancel h).bay.lines = s.bay.lines ∧
    (s.cancel h).bay.selector = s.bay.selector ∧
    (s.cancel h).seq.nextHandle = s.seq.nextHandle := by simp only [State.cancel]; split <;> simp

@[simp] theorem State.yieldReported_keeps (s : State) (y : YieldFrom) :
    (s.yieldReported y).port.replies = s.port.replies ∧ (s.yieldReported y).port.inHand = s.port.inHand ∧
    (s.yieldReported y).port.waiting = s.port.waiting ∧ (s.yieldReported y).link.mode = s.link.mode ∧
    (s.yieldReported y).link.dup = s.link.dup ∧ (s.yieldReported y).link.probeTimer = s.link.probeTimer ∧
    (s.yieldReported y).link.mediumBusy = s.link.mediumBusy ∧ (s.yieldReported y).link.rxEcho = s.link.rxEcho ∧
    (s.yieldReported y).image.peers = s.image.peers ∧ (s.yieldReported y).bay.lines = s.bay.lines ∧
    (s.yieldReported y).bay.selector = s.bay.selector ∧
    (s.yieldReported y).seq.nextHandle = s.seq.nextHandle := by simp only [State.yieldReported]; split <;> simp

@[simp] theorem State.offerClash_keeps (s : State) (z : Nat) :
    (s.offerClash z).port.replies = s.port.replies ∧ (s.offerClash z).port.inHand = s.port.inHand ∧
    (s.offerClash z).port.waiting = s.port.waiting ∧
    (s.offerClash z).seq.nextHandle = s.seq.nextHandle := by simp only [State.offerClash]; split <;> simp

@[simp] theorem State.splitLost_keeps (s : State) (y : YieldFrom) :
    (s.splitLost y).port.replies = s.port.replies ∧ (s.splitLost y).port.inHand = s.port.inHand ∧
    (s.splitLost y).port.waiting = s.port.waiting ∧ (s.splitLost y).link.mode = s.link.mode ∧
    (s.splitLost y).link.dup = s.link.dup ∧ (s.splitLost y).link.probeTimer = s.link.probeTimer ∧
    (s.splitLost y).link.mediumBusy = s.link.mediumBusy ∧ (s.splitLost y).link.rxEcho = s.link.rxEcho ∧
    (s.splitLost y).image.peers = s.image.peers ∧ (s.splitLost y).bay.lines = s.bay.lines ∧
    (s.splitLost y).bay.selector = s.bay.selector ∧
    (s.splitLost y).seq.nextHandle = s.seq.nextHandle := by simp only [State.splitLost]; split <;> simp

@[simp] theorem State.winZone_keeps (s : State) (z : Nat) :
    (s.winZone z).port.replies = s.port.replies ∧ (s.winZone z).port.inHand = s.port.inHand ∧
    (s.winZone z).port.waiting = s.port.waiting ∧ (s.winZone z).link.mode = s.link.mode ∧
    (s.winZone z).link.dup = s.link.dup ∧ (s.winZone z).link.probeTimer = s.link.probeTimer ∧
    (s.winZone z).link.mediumBusy = s.link.mediumBusy ∧ (s.winZone z).link.rxEcho = s.link.rxEcho ∧
    (s.winZone z).image.peers = s.image.peers ∧ (s.winZone z).bay.lines = s.bay.lines ∧
    (s.winZone z).bay.selector = s.bay.selector ∧
    (s.winZone z).seq.nextHandle = s.seq.nextHandle := by simp only [State.winZone]; split <;> simp

@[simp] theorem State.closeWindow_keeps (s : State) (z : Nat) :
    (s.closeWindow z).port.replies = s.port.replies ∧ (s.closeWindow z).port.inHand = s.port.inHand ∧
    (s.closeWindow z).port.waiting = s.port.waiting ∧ (s.closeWindow z).link.mode = s.link.mode ∧
    (s.closeWindow z).link.dup = s.link.dup ∧ (s.closeWindow z).link.probeTimer = s.link.probeTimer ∧
    (s.closeWindow z).link.mediumBusy = s.link.mediumBusy ∧ (s.closeWindow z).link.rxEcho = s.link.rxEcho ∧
    (s.closeWindow z).image.peers = s.image.peers ∧ (s.closeWindow z).bay.lines = s.bay.lines ∧
    (s.closeWindow z).bay.selector = s.bay.selector ∧
    (s.closeWindow z).seq.nextHandle = s.seq.nextHandle := by simp only [State.closeWindow]; (repeat' split) <;> simp

@[simp] theorem State.claimExpiry_keeps (s : State) :
    s.claimExpiry.port.replies = s.port.replies ∧ s.claimExpiry.port.inHand = s.port.inHand ∧
    s.claimExpiry.port.waiting = s.port.waiting ∧ s.claimExpiry.link.mode = s.link.mode ∧
    s.claimExpiry.link.dup = s.link.dup ∧ s.claimExpiry.link.probeTimer = s.link.probeTimer ∧
    s.claimExpiry.link.mediumBusy = s.link.mediumBusy ∧ s.claimExpiry.link.rxEcho = s.link.rxEcho ∧
    s.claimExpiry.image.peers = s.image.peers ∧ s.claimExpiry.bay.lines = s.bay.lines ∧
    s.claimExpiry.bay.selector = s.bay.selector ∧
    s.claimExpiry.seq.nextHandle = s.seq.nextHandle := by simp only [State.claimExpiry]; (repeat' split) <;> simp

@[simp] theorem State.guardRetest_keeps (s : State) :
    s.guardRetest.port.replies = s.port.replies ∧ s.guardRetest.port.inHand = s.port.inHand ∧
    s.guardRetest.port.waiting = s.port.waiting ∧ s.guardRetest.link.mode = s.link.mode ∧
    s.guardRetest.link.dup = s.link.dup ∧ s.guardRetest.link.probeTimer = s.link.probeTimer ∧
    s.guardRetest.link.mediumBusy = s.link.mediumBusy ∧ s.guardRetest.link.rxEcho = s.link.rxEcho ∧
    s.guardRetest.image.peers = s.image.peers ∧ s.guardRetest.bay.lines = s.bay.lines ∧
    s.guardRetest.bay.selector = s.bay.selector ∧
    s.guardRetest.seq.nextHandle = s.seq.nextHandle := by simp only [State.guardRetest]; (repeat' split) <;> simp

@[simp] theorem State.guardExpiry_keeps (s : State) :
    s.guardExpiry.port.replies = s.port.replies ∧ s.guardExpiry.port.inHand = s.port.inHand ∧
    s.guardExpiry.port.waiting = s.port.waiting ∧ s.guardExpiry.link.mode = s.link.mode ∧
    s.guardExpiry.link.dup = s.link.dup ∧ s.guardExpiry.link.probeTimer = s.link.probeTimer ∧
    s.guardExpiry.link.mediumBusy = s.link.mediumBusy ∧ s.guardExpiry.link.rxEcho = s.link.rxEcho ∧
    s.guardExpiry.image.peers = s.image.peers ∧ s.guardExpiry.bay.lines = s.bay.lines ∧
    s.guardExpiry.bay.selector = s.bay.selector ∧
    s.guardExpiry.seq.nextHandle = s.seq.nextHandle := by simp only [State.guardExpiry]; (repeat' split) <;> simp

@[simp] theorem State.promptRetest_keeps (s : State) (z : Nat) (prompt : Bool) :
    (s.promptRetest z prompt).link.mode = s.link.mode ∧ (s.promptRetest z prompt).link.dup = s.link.dup ∧
    (s.promptRetest z prompt).link.probeTimer = s.link.probeTimer ∧
    (s.promptRetest z prompt).link.mediumBusy = s.link.mediumBusy ∧
    (s.promptRetest z prompt).link.rxEcho = s.link.rxEcho := by simp only [State.promptRetest]; split <;> simp

@[simp] theorem State.askHeard_keeps (s : State) (z : Nat) (e : PeerClaim) (prompt : Bool) :
    (s.askHeard z e prompt).link.mode = s.link.mode ∧ (s.askHeard z e prompt).link.dup = s.link.dup ∧
    (s.askHeard z e prompt).link.probeTimer = s.link.probeTimer ∧
    (s.askHeard z e prompt).link.mediumBusy = s.link.mediumBusy ∧
    (s.askHeard z e prompt).link.rxEcho = s.link.rxEcho ∧
    (s.askHeard z e prompt).seq.nextHandle = s.seq.nextHandle := by simp only [State.askHeard]; (repeat' split) <;> simp

@[simp] theorem State.takeAsk_keeps (s : State) (sender z urgency defer lifetime : Nat) :
    (s.takeAsk sender z urgency defer lifetime).link.mode = s.link.mode ∧
    (s.takeAsk sender z urgency defer lifetime).link.dup = s.link.dup ∧
    (s.takeAsk sender z urgency defer lifetime).link.probeTimer = s.link.probeTimer ∧
    (s.takeAsk sender z urgency defer lifetime).link.mediumBusy = s.link.mediumBusy ∧
    (s.takeAsk sender z urgency defer lifetime).link.rxEcho = s.link.rxEcho ∧
    (s.takeAsk sender z urgency defer lifetime).seq.nextHandle = s.seq.nextHandle := by simp only [State.takeAsk]; split <;> simp

@[simp] theorem State.yieldRule_keeps (s : State) (z : Nat) (e : PeerClaim) :
    (s.yieldRule z e).link.mode = s.link.mode ∧ (s.yieldRule z e).link.dup = s.link.dup ∧
    (s.yieldRule z e).link.probeTimer = s.link.probeTimer ∧ (s.yieldRule z e).link.mediumBusy = s.link.mediumBusy ∧
    (s.yieldRule z e).link.rxEcho = s.link.rxEcho := by simp only [State.yieldRule]; split <;> simp

@[simp] theorem State.holdHeard_keeps (s : State) (z : Nat) (e : PeerClaim) (prompt : Bool) :
    (s.holdHeard z e prompt).port.replies = s.port.replies ∧ (s.holdHeard z e prompt).port.inHand = s.port.inHand ∧
    (s.holdHeard z e prompt).port.waiting = s.port.waiting ∧ (s.holdHeard z e prompt).link.mode = s.link.mode ∧
    (s.holdHeard z e prompt).link.dup = s.link.dup ∧ (s.holdHeard z e prompt).link.probeTimer = s.link.probeTimer ∧
    (s.holdHeard z e prompt).link.mediumBusy = s.link.mediumBusy ∧
    (s.holdHeard z e prompt).link.rxEcho = s.link.rxEcho ∧ (s.holdHeard z e prompt).image.peers = s.image.peers ∧
    (s.holdHeard z e prompt).bay.lines = s.bay.lines ∧ (s.holdHeard z e prompt).bay.selector = s.bay.selector ∧
    (s.holdHeard z e prompt).seq.nextHandle = s.seq.nextHandle := by simp only [State.holdHeard]; (repeat' split) <;> simp

@[simp] theorem State.takeHold_keeps (s : State) (sender z urgency defer holdMs : Nat) :
    (s.takeHold sender z urgency defer holdMs).port.replies = s.port.replies ∧
    (s.takeHold sender z urgency defer holdMs).port.inHand = s.port.inHand ∧
    (s.takeHold sender z urgency defer holdMs).port.waiting = s.port.waiting ∧
    (s.takeHold sender z urgency defer holdMs).link.mode = s.link.mode ∧
    (s.takeHold sender z urgency defer holdMs).link.dup = s.link.dup ∧
    (s.takeHold sender z urgency defer holdMs).link.probeTimer = s.link.probeTimer ∧
    (s.takeHold sender z urgency defer holdMs).link.mediumBusy = s.link.mediumBusy ∧
    (s.takeHold sender z urgency defer holdMs).link.rxEcho = s.link.rxEcho ∧
    (s.takeHold sender z urgency defer holdMs).image.peers = s.image.peers ∧
    (s.takeHold sender z urgency defer holdMs).bay.lines = s.bay.lines ∧
    (s.takeHold sender z urgency defer holdMs).bay.selector = s.bay.selector ∧
    (s.takeHold sender z urgency defer holdMs).seq.nextHandle = s.seq.nextHandle := by simp only [State.takeHold]; split <;> simp

@[simp] theorem State.takeDrop_keeps (s : State) (sender z : Nat) :
    (s.takeDrop sender z).link.mode = s.link.mode ∧ (s.takeDrop sender z).link.dup = s.link.dup ∧
    (s.takeDrop sender z).link.probeTimer = s.link.probeTimer ∧
    (s.takeDrop sender z).link.mediumBusy = s.link.mediumBusy ∧
    (s.takeDrop sender z).link.rxEcho = s.link.rxEcho := by simp [State.takeDrop]

@[simp] theorem State.takeYield_keeps (s : State) (sender z urgency : Nat) :
    (s.takeYield sender z urgency).port.replies = s.port.replies ∧
    (s.takeYield sender z urgency).port.inHand = s.port.inHand ∧
    (s.takeYield sender z urgency).port.waiting = s.port.waiting ∧
    (s.takeYield sender z urgency).link.mode = s.link.mode ∧ (s.takeYield sender z urgency).link.dup = s.link.dup ∧
    (s.takeYield sender z urgency).link.probeTimer = s.link.probeTimer ∧
    (s.takeYield sender z urgency).link.mediumBusy = s.link.mediumBusy ∧
    (s.takeYield sender z urgency).link.rxEcho = s.link.rxEcho ∧
    (s.takeYield sender z urgency).image.peers = s.image.peers ∧
    (s.takeYield sender z urgency).bay.lines = s.bay.lines ∧
    (s.takeYield sender z urgency).bay.selector = s.bay.selector ∧
    (s.takeYield sender z urgency).seq.nextHandle = s.seq.nextHandle := by simp only [State.takeYield]; split <;> simp

@[simp] theorem State.enterMuted_keeps (s : State) (kind : FaultKind) :
    (s.enterMuted kind).port.replies = s.port.replies ∧ (s.enterMuted kind).port.inHand = s.port.inHand ∧
    (s.enterMuted kind).port.waiting = s.port.waiting ∧
    (s.enterMuted kind).seq.nextHandle = s.seq.nextHandle := by simp [State.enterMuted]

@[simp] theorem State.probeDropped_keeps (s : State) (h : InHand) :
    (s.probeDropped h).port.replies = s.port.replies ∧ (s.probeDropped h).port.inHand = s.port.inHand ∧
    (s.probeDropped h).port.waiting = s.port.waiting ∧
    (s.probeDropped h).seq.nextHandle = s.seq.nextHandle := by simp only [State.probeDropped]; split <;> simp

@[simp] theorem State.dropFrame_keeps (s : State) (h : InHand) :
    (s.dropFrame h).port.replies = s.port.replies ∧ (s.dropFrame h).port.inHand = s.port.inHand ∧
    (s.dropFrame h).port.waiting = s.port.waiting ∧
    (s.dropFrame h).seq.nextHandle = s.seq.nextHandle := by simp only [State.dropFrame]; split <;> simp

@[simp] theorem State.beginAttempt_keeps (s : State) :
    s.beginAttempt.link.mode = s.link.mode ∧ s.beginAttempt.link.dup = s.link.dup ∧
    s.beginAttempt.link.probeTimer = s.link.probeTimer ∧ s.beginAttempt.link.mediumBusy = s.link.mediumBusy ∧
    s.beginAttempt.link.rxEcho = s.link.rxEcho := by simp only [State.beginAttempt]; (repeat' split) <;> simp

@[simp] theorem State.attemptFailed_keeps (s : State) (collided : Bool) :
    (s.attemptFailed collided).port.replies = s.port.replies ∧
    (s.attemptFailed collided).port.inHand = s.port.inHand ∧
    (s.attemptFailed collided).port.waiting = s.port.waiting ∧
    (s.attemptFailed collided).seq.nextHandle = s.seq.nextHandle := by simp only [State.attemptFailed]; (repeat' split) <;> simp

@[simp] theorem State.frameSent_keeps (s : State) (h : InHand) :
    (s.frameSent h).port.replies = s.port.replies ∧ (s.frameSent h).port.inHand = s.port.inHand ∧
    (s.frameSent h).port.waiting = s.port.waiting := by simp only [State.frameSent]; split <;> simp

@[simp] theorem State.attemptSent_keeps (s : State) :
    s.attemptSent.port.replies = s.port.replies ∧ s.attemptSent.port.inHand = s.port.inHand ∧
    s.attemptSent.port.waiting = s.port.waiting := by simp only [State.attemptSent]; split <;> simp

@[simp] theorem State.duplicate_keeps (s : State) :
    s.duplicate.port.replies = s.port.replies ∧ s.duplicate.port.inHand = s.port.inHand ∧
    s.duplicate.port.waiting = s.port.waiting ∧
    s.duplicate.seq.nextHandle = s.seq.nextHandle := by simp only [State.duplicate]; split <;> simp

@[simp] theorem State.dispatch_keeps (s : State) (f : Frame) :
    (s.dispatch f).port.replies = s.port.replies ∧ (s.dispatch f).port.inHand = s.port.inHand ∧
    (s.dispatch f).port.waiting = s.port.waiting ∧ (s.dispatch f).link.mode = s.link.mode ∧
    (s.dispatch f).link.dup = s.link.dup ∧ (s.dispatch f).link.probeTimer = s.link.probeTimer ∧
    (s.dispatch f).link.mediumBusy = s.link.mediumBusy ∧ (s.dispatch f).link.rxEcho = s.link.rxEcho ∧
    (s.dispatch f).bay.lines = s.bay.lines ∧ (s.dispatch f).bay.selector = s.bay.selector ∧
    (s.dispatch f).seq.nextHandle = s.seq.nextHandle := by simp only [State.dispatch]; split <;> simp

@[simp] theorem State.receive_keeps (s : State) (f : Frame) :
    (s.receive f).port.replies = s.port.replies ∧ (s.receive f).port.inHand = s.port.inHand ∧
    (s.receive f).port.waiting = s.port.waiting ∧ (s.receive f).bay.lines = s.bay.lines ∧
    (s.receive f).bay.selector = s.bay.selector ∧
    (s.receive f).seq.nextHandle = s.seq.nextHandle := by simp only [State.receive]; (repeat' split) <;> simp

@[simp] theorem State.filterSelector_keeps (s : State) :
    s.filterSelector.port.replies = s.port.replies ∧ s.filterSelector.port.inHand = s.port.inHand ∧
    s.filterSelector.port.waiting = s.port.waiting ∧ s.filterSelector.link.mode = s.link.mode ∧
    s.filterSelector.link.dup = s.link.dup ∧ s.filterSelector.link.probeTimer = s.link.probeTimer ∧
    s.filterSelector.link.mediumBusy = s.link.mediumBusy ∧ s.filterSelector.link.rxEcho = s.link.rxEcho ∧
    s.filterSelector.seq.nextHandle = s.seq.nextHandle := by simp only [State.filterSelector]; (repeat' split) <;> simp

end Sys2Proof.Machine
end

