-- ==== Sys2Proof/Laws/Ops.lean ====
section
/-! SUPPORT. The shared operations, each said once: the configuration store, events, offers and the transmit list. -/
namespace Sys2Proof.Machine

/-! ### The configuration store -/

theorem storeRead_cons (c : Host.Cell) (m : List Host.Cell) (a : Nat) :
    storeRead (c :: m) a = if c.1 = a then c.2 else storeRead m a := by
  by_cases h : c.1 = a <;> simp [storeRead, h]

/-- Below every listed address the store reads as blank. -/
theorem storeRead_below (m : List Host.Cell) (a : Nat) (h : ∀ c ∈ m, a < c.1) : storeRead m a = blankByte := by
  induction m with
  | nil => rfl
  | cons c m ih =>
    have h1 := h c (by simp)
    rw [storeRead_cons, if_neg (by omega)]
    exact ih fun d hd => h d (by simp [hd])

/-- Addresses strictly rising: the order part of the canonical form. -/
def StoreSorted (m : List Host.Cell) : Prop := m.Pairwise fun c d => c.1 < d.1

theorem StoreSorted.of_wf {m : List Host.Cell} (h : storeWf m = true) : StoreSorted m := by
  simp [storeWf] at h; exact h.1

/-- A byte written is the byte read, and every other byte is as before. -/
theorem storeRead_write (m : List Host.Cell) (a : Nat) (b : Byte) (hs : StoreSorted m) (x : Nat) :
    storeRead (storeWrite m a b) x = if x = a then b else storeRead m x := by
  induction m with
  | nil =>
    simp only [storeWrite]
    split
    · split
      · rename_i h _; subst h; rfl
      · rfl
    · rw [storeRead_cons]; split <;> split <;> simp_all
  | cons c m ih =>
    have hs' : StoreSorted m := (List.pairwise_cons.mp hs).2
    have hlt := (List.pairwise_cons.mp hs).1
    simp only [storeWrite]
    split
    · rw [storeRead_cons, ih hs', storeRead_cons]; split <;> split <;> simp_all
    · split
      · split
        · rename_i h1 h2 h3
          subst h3
          rw [storeRead_cons]
          by_cases hx : x = a
          · subst hx; simp only [if_true]
            exact storeRead_below m x (by intro d hd; have := hlt d hd; omega)
          · have : c.1 ≠ x := by omega
            simp [hx, this]
        · rw [storeRead_cons, storeRead_cons]; split <;> split <;> simp_all
      · split
        · rename_i h1 h2 h3
          by_cases hx : x = a
          · subst hx; simp only [if_true]; rw [storeRead_cons, if_neg h2, h3]
            exact storeRead_below m x (by intro d hd; have := hlt d hd; omega)
          · simp [hx]
        · rw [storeRead_cons]; split <;> split <;> simp_all

/-- What a write can list: the byte written, if it is not blank, and what was listed. -/
theorem storeWrite_mem (m : List Host.Cell) (a : Nat) (b : Byte) (c : Host.Cell) (h : c ∈ storeWrite m a b) :
    c = (a, b) ∧ b ≠ blankByte ∨ c ∈ m := by
  induction m with
  | nil => simp only [storeWrite] at h; split at h <;> simp_all
  | cons d m ih =>
    simp only [storeWrite] at h
    split at h
    · simp only [List.mem_cons] at h
      rcases h with h | h
      · simp [h]
      · rcases ih h with h | h <;> simp [h]
    · split at h
      · split at h
        · simp [h]
        · simp only [List.mem_cons] at h; rcases h with h | h <;> simp_all
      · split at h
        · simp_all
        · simp only [List.mem_cons] at h; rcases h with h | h | h <;> simp_all

theorem storeWrite_sorted (m : List Host.Cell) (a : Nat) (b : Byte) (hs : StoreSorted m) :
    StoreSorted (storeWrite m a b) := by
  induction m with
  | nil => simp only [storeWrite]; split <;> simp [StoreSorted]
  | cons c m ih =>
    have hs' : StoreSorted m := (List.pairwise_cons.mp hs).2
    have hlt := (List.pairwise_cons.mp hs).1
    simp only [storeWrite]
    split
    · refine List.pairwise_cons.mpr ⟨?_, ih hs'⟩
      intro d hd
      rcases storeWrite_mem m a b d hd with h | h
      · rw [h.1]; assumption
      · exact hlt d h
    · split
      · split
        · exact hs'
        · refine List.pairwise_cons.mpr ⟨?_, hs'⟩
          intro d hd; have := hlt d hd; simp_all
      · split
        · exact hs
        · refine List.pairwise_cons.mpr ⟨?_, hs⟩
          intro d hd
          rcases List.mem_cons.mp hd with h | h
          · subst h; show a < d.1; omega
          · have := hlt d h; show a < d.1; omega

/-- A write inside the store keeps its canonical form. -/
theorem storeWrite_wf (m : List Host.Cell) (a : Nat) (b : Byte) (hm : storeWf m = true) (ha : a < Config.storeBytes) :
    storeWf (storeWrite m a b) = true := by
  have hs := storeWrite_sorted m a b (.of_wf hm)
  have hall : ∀ c ∈ m, c.1 < Config.storeBytes ∧ c.2 ≠ blankByte := by
    intro c hc
    have h2 : (m.all fun c => decide (c.1 < Config.storeBytes) && decide (c.2 ≠ blankByte)) = true := by
      unfold storeWf at hm; exact (Bool.and_eq_true_iff.mp hm).2
    have h3 := List.all_eq_true.mp h2 c hc
    simpa using h3
  unfold storeWf
  refine Bool.and_eq_true_iff.mpr ⟨decide_eq_true hs, List.all_eq_true.mpr ?_⟩
  intro c hc
  rcases storeWrite_mem m a b c hc with ⟨h, hb⟩ | h
  · subst h; simp [ha, hb]
  · have := hall c h; simp [this.1, this.2]

/-- Bytes written inside the store keep its canonical form. -/
theorem storeWriteBytes_wf (bs : List Byte) (m : List Host.Cell) (a : Nat) (hm : storeWf m = true)
    (ha : a + bs.length ≤ Config.storeBytes) : storeWf (storeWriteBytes m a bs) = true := by
  induction bs generalizing m a with
  | nil => exact hm
  | cons b bs ih =>
    simp only [List.length_cons] at ha
    exact ih _ _ (storeWrite_wf m a b hm (by omega)) (by omega)

theorem storeWriteBytes_sorted (bs : List Byte) (m : List Host.Cell) (a : Nat) (hm : StoreSorted m) :
    StoreSorted (storeWriteBytes m a bs) := by
  induction bs generalizing m a with
  | nil => exact hm
  | cons b bs ih => exact ih _ _ (storeWrite_sorted m a b hm)

/-- Bytes written are the bytes read, and every other byte is as before. -/
theorem storeRead_writeBytes (bs : List Byte) (m : List Host.Cell) (a : Nat) (hs : StoreSorted m) (x : Nat) :
    storeRead (storeWriteBytes m a bs) x =
      if a ≤ x ∧ x < a + bs.length then bs.getD (x - a) 0xFF else storeRead m x := by
  induction bs generalizing m a with
  | nil => rw [if_neg (by simp)]; rfl
  | cons b bs ih =>
    simp only [storeWriteBytes]
    rw [ih _ _ (storeWrite_sorted m a b hs), storeRead_write m a b hs]
    by_cases hx : x = a
    · subst hx; simp
    · by_cases h2 : a ≤ x ∧ x < a + (b :: bs).length
      · have h3 : a + 1 ≤ x ∧ x < a + 1 + bs.length := by simp only [List.length_cons] at h2; omega
        rw [if_pos h3, if_pos h2]
        obtain ⟨k, rfl⟩ : ∃ k, x = a + 1 + k := ⟨x - a - 1, by omega⟩
        have h4 : a + 1 + k - a = k + 1 := by omega
        simp [h4]
      · rw [if_neg h2, if_neg (by simp only [List.length_cons] at h2; omega), if_neg hx]

/-- A block that was on its way into the store, written whole. -/
theorem BlockIn.of_written {s t : State} {w : BlockWrite} (h : s.storeInv) (hw : s.ctl.blockWrite = some w)
    (ht : t.ctl.store = storeWriteBytes s.ctl.store w.offset w.data) : BlockIn s t w := by
  intro a
  rw [ht, storeRead_writeBytes _ _ _ (.of_wf h.1), (h.2.1 w hw).2]

/-- What the loss of supply does to a block being stored: whole or not at all, and nothing else of the state. -/
theorem State.tearBlock_cases (s : State) :
    (s.tearBlock.ctl.store = s.ctl.store ∨
      ∃ w, s.ctl.blockWrite = some w ∧ s.tearBlock.ctl.store = storeWriteBytes s.ctl.store w.offset w.data) ∧
    s.tearBlock = { s with
      ctl := { s.ctl with store := s.tearBlock.ctl.store, blockWrite := none }, freeCount := s.tearBlock.freeCount } ∧
    (s.ctl.blockWrite = none → s.tearBlock.freeCount = s.freeCount) := by
  unfold State.tearBlock
  cases h : s.ctl.blockWrite with
  | none =>
    refine ⟨.inl rfl, ?_, fun _ => rfl⟩
    obtain ⟨_, _, ctl, _, _, _, _, _, _, _, _, _⟩ := s
    obtain ⟨_, _, _, _, _, _, _, _⟩ := ctl
    simp_all
  | some w =>
    dsimp only
    split
    · exact ⟨.inr ⟨w, rfl, rfl⟩, rfl, by simp⟩
    · exact ⟨.inl rfl, rfl, by simp⟩

theorem OldOrNew.of_torn {s t : State} (h : s.storeInv) (ht : t.ctl.store = s.tearBlock.ctl.store) : OldOrNew s t := by
  rcases s.tearBlock_cases.1 with h1 | ⟨w, hw, h1⟩
  · left; intro a; rw [ht, h1]
  · right; exact ⟨w, hw, .of_written h hw (by rw [ht, h1])⟩

/-! ### Events -/

/-- An event changes the queue and the flag alone, by the clock and the port as they stand. -/
theorem State.event_eq (s : State) (b : EventBody) : s.event b = { s with port := (s.event b).port } := by
  unfold State.event; split <;> rfl

theorem State.raise_eq (l : List EventBody) (s : State) : s.raise l = { s with port := (s.raise l).port } := by
  induction l generalizing s with
  | nil => rfl
  | cons b l ih =>
    show (s.event b).raise l = { s with port := ((s.event b).raise l).port }
    rw [ih (s.event b)]
    simp

@[simp] theorem State.raise_nil (s : State) : s.raise [] = s := rfl
theorem State.raise_cons (s : State) (b : EventBody) (l : List EventBody) : s.raise (b :: l) = (s.event b).raise l := rfl
theorem State.raise_one (s : State) (b : EventBody) : s.raise [b] = s.event b := rfl
theorem State.raise_append (s : State) (l k : List EventBody) : s.raise (l ++ k) = (s.raise l).raise k := by
  simp [State.raise, List.foldl_append]

/-- The queue after an event depends on the port and the clock alone. -/
theorem State.event_port_congr {s t : State} (b : EventBody) (hp : s.port = t.port) (hm : s.micros = t.micros) :
    (s.event b).port = (t.event b).port := by
  unfold State.event; rw [hp]; split <;> simp [State.setPort, State.now, hm]

theorem State.raise_port_congr (l : List EventBody) {s t : State} (hp : s.port = t.port) (hm : s.micros = t.micros) :
    (s.raise l).port = (t.raise l).port := by
  induction l generalizing s t with
  | nil => exact hp
  | cons b l ih => exact ih (s.event_port_congr b hp hm) (by rw [s.event_eq, t.event_eq]; exact hm)

@[simp] theorem State.raise_keeps (s : State) (l : List EventBody) :
    (s.raise l).port.replies = s.port.replies ∧ (s.raise l).port.inHand = s.port.inHand ∧
    (s.raise l).port.waiting = s.port.waiting ∧ (s.raise l).port.capture = s.port.capture := by
  induction l generalizing s with
  | nil => simp
  | cons b l ih =>
    have h := ih (s.event b)
    rw [State.raise_cons]
    refine ⟨h.1.trans ?_, h.2.1.trans ?_, h.2.2.1.trans ?_, h.2.2.2.trans ?_⟩ <;>
      (unfold State.event; split <;> rfl)

@[simp] theorem State.raise_frame (s : State) (l : List EventBody) :
    (s.raise l).micros = s.micros ∧ (s.raise l).supplied = s.supplied ∧ (s.raise l).ctl = s.ctl ∧
    (s.raise l).bay = s.bay ∧ (s.raise l).image = s.image ∧ (s.raise l).claims = s.claims ∧ (s.raise l).seq = s.seq ∧
    (s.raise l).pub = s.pub ∧ (s.raise l).link = s.link ∧ (s.raise l).freeCount = s.freeCount ∧
    (s.raise l).pending = s.pending := by
  rw [State.raise_eq]; simp

/-- The event queue never holds more than 32 records. -/
theorem State.event_length (s : State) (b : EventBody) (h : s.port.events.length ≤ 32) :
    (s.event b).port.events.length ≤ 32 := by
  unfold State.event Config.eventCapacity
  split
  · simp; omega
  · exact h

/-! ### Offers -/

/-- What an offer does to the link depends on the link, the model, the clock and the mode alone, and it does nothing
else. -/
theorem State.offer_eq (s : State) (b : FrameBody) : s.offer b = { s with link := (s.offer b).link } := by
  unfold State.offer
  split
  · unfold State.takeInHand; split
    · unfold State.takeHead; split <;> rfl
    · rfl
  · rfl

theorem State.offer_link_congr {s t : State} (b : FrameBody) (hl : s.link = t.link) (hc : s.ctl = t.ctl)
    (hm : s.micros = t.micros) (hs : s.supplied = t.supplied) : (s.offer b).link = (t.offer b).link := by
  obtain ⟨_, _, _, _, _, _, _, _, _, _, _, _⟩ := s
  obtain ⟨_, _, _, _, _, _, _, _, _, _, _, _⟩ := t
  simp only at hl hc hm hs
  subst hl hc hm hs
  unfold State.offer State.running
  split
  · unfold State.takeInHand State.setLink State.frame State.unit
    dsimp only
    split
    · unfold State.takeHead State.spellStart State.setLink
      dsimp only
      split <;> rfl
    · rfl
  · rfl

theorem State.offers_eq (l : List FrameBody) (s : State) : s.offers l = { s with link := (s.offers l).link } := by
  induction l generalizing s with
  | nil => rfl
  | cons b l ih =>
    show (s.offer b).offers l = { s with link := ((s.offer b).offers l).link }
    rw [ih (s.offer b)]
    simp

theorem State.offers_link_congr (l : List FrameBody) {s t : State} (hl : s.link = t.link) (hc : s.ctl = t.ctl)
    (hm : s.micros = t.micros) (hs : s.supplied = t.supplied) : (s.offers l).link = (t.offers l).link := by
  induction l generalizing s t with
  | nil => exact hl
  | cons b l ih =>
    refine ih (State.offer_link_congr b hl hc hm hs) ?_ ?_ ?_ <;> rw [s.offer_eq, t.offer_eq] <;> assumption

theorem State.offers_append (s : State) (l k : List FrameBody) : s.offers (l ++ k) = (s.offers l).offers k := by
  simp [State.offers, List.foldl_append]

@[simp] theorem State.offers_frame (s : State) (l : List FrameBody) :
    (s.offers l).micros = s.micros ∧ (s.offers l).supplied = s.supplied ∧ (s.offers l).ctl = s.ctl ∧
    (s.offers l).bay = s.bay ∧ (s.offers l).image = s.image ∧ (s.offers l).claims = s.claims ∧
    (s.offers l).seq = s.seq ∧ (s.offers l).pub = s.pub ∧ (s.offers l).port = s.port ∧
    (s.offers l).freeCount = s.freeCount ∧ (s.offers l).pending = s.pending := by
  rw [State.offers_eq]; simp

/-- A frame put into the list takes a slot of its own: no slot is listed twice. -/
theorem insertFrame_slots (l : List Frame) (f : Frame) (h : (l.map (·.body.slot)).Nodup) :
    ((insertFrame l f).map (·.body.slot)).Nodup := by
  unfold insertFrame
  split
  · have hm : (modifyWhere (fun g => g.body.slot == f.body.slot) (fun _ => f) l).map (·.body.slot) =
        l.map (·.body.slot) := by
      unfold modifyWhere
      rw [List.map_map]
      refine List.map_congr_left fun g _ => ?_
      simp only [Function.comp]
      split
      · rename_i hg; exact (beq_iff_eq.mp hg).symm
      · rfl
    rw [hm]; exact h
  · rename_i hn
    rw [List.map_append, List.nodup_append]
    refine ⟨h, by simp, ?_⟩
    intro a ha b hb
    simp only [List.map_cons, List.map_nil, List.mem_singleton] at hb
    obtain ⟨g, hg, rfl⟩ := List.mem_map.mp ha
    intro he
    apply hn
    exact List.any_eq_true.mpr ⟨g, hg, by simp [he, hb]⟩

/-- An offer keeps at most one frame a slot in the transmit list. -/
theorem State.offer_slots (s : State) (b : FrameBody) (h : s.slotInv) : (s.offer b).slotInv := by
  unfold State.slotInv at *
  unfold State.offer
  split
  · have hi := insertFrame_slots s.link.txList (s.frame b) h
    unfold State.takeInHand
    split
    · unfold State.takeHead
      split
      · exact hi
      · rename_i f rest he
        simp only [State.setLink_link] at he ⊢
        rw [he] at hi
        exact (List.nodup_cons.mp hi).2
    · exact hi
  · exact h

end Sys2Proof.Machine
end

