-- ==== Sys2Proof/Laws/Claims.lean ====
section
/-! SUPPORT. The claim controller's operations, each said once: own states, peer lists, dropping and entering. -/
namespace Sys2Proof.Machine

/-! ### Keyed tables -/

theorem modifyWhere_eq {α : Type} (p : α → Bool) (f : α → α) (l : List α) :
    modifyWhere p f l = l.map fun a => if p a then f a else a := rfl

/-- Looking a row up by a key that changes keep finds the changed row. -/
theorem find_map_key {α : Type} (key : α → Nat) (g : α → α) (hk : ∀ a, key (g a) = key a) (l : List α) (n : Nat) :
    (l.map g).find? (fun a => key a == n) = (l.find? fun a => key a == n).map g := by
  induction l with
  | nil => rfl
  | cons a l ih =>
    rw [List.map_cons, List.find?_cons, List.find?_cons, hk, ih]
    split <;> rfl

/-- Looking up in a table with the rows of one key changed. -/
theorem find_modify_key {α : Type} (key : α → Nat) (k : Nat) (f : α → α) (hf : ∀ a, key (f a) = key a) (l : List α)
    (n : Nat) :
    (modifyWhere (fun a => key a == k) f l).find? (fun a => key a == n) =
      (l.find? fun a => key a == n).map fun a => if n = k then f a else a := by
  unfold modifyWhere
  rw [find_map_key key (fun a => if key a == k then f a else a) (by intro a; split <;> simp [hf])]
  cases h : l.find? (fun a => key a == n) with
  | none => rfl
  | some a =>
    have ha : key a = n := by simpa using List.find?_some h
    simp [ha]

/-! ### Own states -/

theorem State.zone_mapZone (s : State) (z : Nat) (f : ZoneClaim → ZoneClaim) (hf : ∀ c, (f c).zone = c.zone) (y : Nat) :
    (s.mapZone z f).zone? y = (s.zone? y).map fun c => if y = z then f c else c :=
  find_modify_key (fun c : ZoneClaim => c.zone) z f hf s.claims.zones y

/-- A zone's own state after one zone's has been set: a zone that the model does not hold stays IDLE. -/
theorem State.own_setOwn (s : State) (z : Nat) (st : OwnState) (y : Nat) :
    (s.setOwn z st).own y = if y = z ∧ (s.zone? z).isSome = true then st else s.own y := by
  unfold State.own State.setOwn
  rw [State.zone_mapZone s z (fun c => { c with own := st }) (fun _ => rfl)]
  by_cases hy : y = z
  · subst hy; cases h : s.zone? y <;> simp
  · cases h : s.zone? y <;> simp [hy]

theorem State.peersOf_setOwn (s : State) (z : Nat) (st : OwnState) (y : Nat) :
    (s.setOwn z st).peersOf y = s.peersOf y := by
  unfold State.peersOf State.setOwn
  rw [State.zone_mapZone s z (fun c => { c with own := st }) (fun _ => rfl)]
  cases h : s.zone? y <;> simp
  split <;> rfl

theorem State.isSome_zone_setOwn (s : State) (z : Nat) (st : OwnState) (y : Nat) :
    ((s.setOwn z st).zone? y).isSome = (s.zone? y).isSome := by
  unfold State.setOwn
  rw [State.zone_mapZone s z (fun c => { c with own := st }) (fun _ => rfl)]
  simp

/-- A zone whose own state is not IDLE is one of the model's. -/
theorem State.zone_of_own {s : State} {z : Nat} (h : s.own z ≠ .idle) : (s.zone? z).isSome = true := by
  unfold State.own at h
  cases hz : s.zone? z
  · simp [hz] at h
  · rfl

theorem State.setOwn_eq (s : State) (z : Nat) (st : OwnState) : s.setOwn z st = s.ownSet z st := by
  unfold State.setOwn State.mapZone State.ownSet modifyWhere State.setClaims
  simp only [beq_iff_eq]

/-- What depends on the claims alone is the same in states with the same claims. -/
theorem State.own_congr {s t : State} (h : s.claims = t.claims) (z : Nat) : s.own z = t.own z := by
  unfold State.own State.zone?; rw [h]

theorem State.peersOf_congr {s t : State} (h : s.claims = t.claims) (z : Nat) : s.peersOf z = t.peersOf z := by
  unfold State.peersOf State.zone?; rw [h]

theorem State.zone_congr {s t : State} (h : s.claims = t.claims) (z : Nat) : s.zone? z = t.zone? z := by
  unfold State.zone?; rw [h]

/-! ### Dropping (R136, R141) -/

/-- A zone dropped: IDLE, a DROP offered if it was not, and nothing else. -/
theorem State.dropZone_cases (s : State) (z : Nat) :
    (s.own z = .idle → s.dropZone z = s) ∧
    (s.own z ≠ .idle → s.dropZone z = (s.setOwn z .idle).offer (.drop z)) := by
  unfold State.dropZone
  exact ⟨fun h => if_pos h, fun h => if_neg h⟩

theorem State.own_dropZone (s : State) (z y : Nat) : (s.dropZone z).own y = if y = z then .idle else s.own y := by
  by_cases h : s.own z = .idle
  · rw [(s.dropZone_cases z).1 h]; split
    · rename_i hy; rw [hy]; exact h
    · rfl
  · rw [(s.dropZone_cases z).2 h]
    rw [State.own_congr (t := s.setOwn z .idle) (by simp) y, State.own_setOwn]
    simp [State.zone_of_own h]

theorem State.peersOf_dropZone (s : State) (z y : Nat) : (s.dropZone z).peersOf y = s.peersOf y := by
  by_cases h : s.own z = .idle
  · rw [(s.dropZone_cases z).1 h]
  · rw [(s.dropZone_cases z).2 h]
    rw [State.peersOf_congr (t := s.setOwn z .idle) (by simp) y, State.peersOf_setOwn]

theorem State.dropZone_eq (s : State) (z : Nat) :
    s.dropZone z = { s with claims := (s.dropZone z).claims, link := (s.dropZone z).link } := by
  by_cases h : s.own z = .idle
  · rw [(s.dropZone_cases z).1 h]
  · rw [(s.dropZone_cases z).2 h, State.offer_eq]; rfl

/-- Zones dropped in order: IDLE, the others and every peer list as before. -/
theorem State.own_dropZones (l : List Nat) (s : State) (y : Nat) :
    (State.dropZones l s).own y = if y ∈ l then .idle else s.own y := by
  induction l generalizing s with
  | nil => simp [State.dropZones]
  | cons z l ih =>
    show (State.dropZones l (s.dropZone z)).own y = _
    rw [ih, State.own_dropZone]
    by_cases h1 : y ∈ l <;> by_cases h2 : y = z <;> simp [h1, h2]

theorem State.peersOf_dropZones (l : List Nat) (s : State) (y : Nat) :
    (State.dropZones l s).peersOf y = s.peersOf y := by
  induction l generalizing s with
  | nil => rfl
  | cons z l ih => exact (ih _).trans (s.peersOf_dropZone z y)

theorem State.dropZones_eq (l : List Nat) (s : State) :
    State.dropZones l s = { s with claims := (State.dropZones l s).claims, link := (State.dropZones l s).link } := by
  induction l generalizing s with
  | nil => rfl
  | cons z l ih =>
    show State.dropZones l (s.dropZone z) = { s with
      claims := (State.dropZones l (s.dropZone z)).claims, link := (State.dropZones l (s.dropZone z)).link }
    rw [ih (s.dropZone z)]
    simp

theorem State.job_dropZones (l : List Nat) (s : State) : (State.dropZones l s).claims.job = s.claims.job := by
  induction l generalizing s with
  | nil => rfl
  | cons z l ih =>
    refine (ih (s.dropZone z)).trans ?_
    by_cases h : s.own z = .idle
    · rw [(s.dropZone_cases z).1 h]
    · rw [(s.dropZone_cases z).2 h]; simp [State.setOwn, State.mapZone]

theorem State.isSome_zone_dropZones (l : List Nat) (s : State) (y : Nat) :
    ((State.dropZones l s).zone? y).isSome = (s.zone? y).isSome := by
  induction l generalizing s with
  | nil => rfl
  | cons z l ih =>
    refine (ih (s.dropZone z)).trans ?_
    by_cases h : s.own z = .idle
    · rw [(s.dropZone_cases z).1 h]
    · rw [(s.dropZone_cases z).2 h, State.zone_congr (t := s.setOwn z .idle) (by simp) y, State.isSome_zone_setOwn]

/-- A DROP is offered for each zone of the list that is not IDLE, in order. -/
theorem State.link_dropZones (l : List Nat) (s : State) (h : l.Nodup) :
    (State.dropZones l s).link = (s.offers ((l.filter fun z => s.own z ≠ .idle).map .drop)).link := by
  induction l generalizing s with
  | nil => rfl
  | cons z l ih =>
    have hn := List.nodup_cons.mp h
    show (State.dropZones l (s.dropZone z)).link = _
    rw [ih _ hn.2]
    have hf : (l.filter fun y => (s.dropZone z).own y ≠ .idle) = l.filter fun y => s.own y ≠ .idle := by
      refine List.filter_congr fun y hy => ?_
      have : y ≠ z := fun he => hn.1 (he ▸ hy)
      rw [State.own_dropZone, if_neg this]
    rw [hf]
    by_cases hz : s.own z = .idle
    · rw [(s.dropZone_cases z).1 hz]; simp [hz]
    · rw [(s.dropZone_cases z).2 hz, List.filter_cons_of_pos (by simp [hz]), List.map_cons]
      show _ = ((s.offer (.drop z)).offers _).link
      refine State.offers_link_congr _ ?_ (by simp) (by simp) (by simp)
      exact State.offer_link_congr _ (by simp) (by simp) (by simp) (by simp)

/-! ### Peer claim lists (R124, R125, R131) -/

theorem worstOf_mem (l : List PeerClaim) (w : PeerClaim) (h : worstOf l = some w) : w ∈ l := by
  induction l generalizing w with
  | nil => simp [worstOf] at h
  | cons e l ih =>
    simp only [worstOf] at h
    split at h
    · simp_all
    · rename_i x hx
      split at h
      · injection h with h; subst h; exact List.mem_cons_of_mem _ (ih _ hx)
      · simp_all

theorem earliestOf_mem (now : Time) (l : List PeerClaim) (w : PeerClaim) (h : earliestOf now l = some w) : w ∈ l := by
  induction l generalizing w with
  | nil => simp [earliestOf] at h
  | cons e l ih =>
    simp only [earliestOf] at h
    split at h
    · simp_all
    · rename_i x hx
      split at h
      · simp_all
      · injection h with h; subst h; exact List.mem_cons_of_mem _ (ih _ hx)

theorem evicted_mem (now : Time) (l : List PeerClaim) (new w : PeerClaim) (h : evicted now l new = some w) : w ∈ l := by
  have hask : ∀ x, worstOf (asksOf l) = some x → x ∈ l := fun x hx => (List.mem_filter.mp (worstOf_mem _ _ hx)).1
  unfold evicted at h
  split at h
  · injection h with h; subst h; exact hask _ (by assumption)
  · exact earliestOf_mem now l w h
  · split at h
    · injection h with h; subst h; exact hask _ (by assumption)
    · exact absurd h (by simp)
  · exact absurd h (by simp)

/-- An entry added to a list that holds none of its unit keeps at most 8 entries and at most one a unit. -/
theorem addEntry_bounds (now : Time) (l : List PeerClaim) (new : PeerClaim) (hl : l.length ≤ 8)
    (hn : (l.map (·.unit)).Nodup) (hnew : ∀ e ∈ l, e.unit ≠ new.unit) :
    (addEntry now l new).length ≤ 8 ∧ ((addEntry now l new).map (·.unit)).Nodup := by
  have hadd : ∀ k : List PeerClaim, k.Sublist l → ((k ++ [new]).map (·.unit)).Nodup := by
    intro k hk
    rw [List.map_append, List.nodup_append]
    refine ⟨hn.sublist (hk.map _), by simp, ?_⟩
    intro a ha b hb
    obtain ⟨e, he, rfl⟩ := List.mem_map.mp ha
    simp only [List.map_cons, List.map_nil, List.mem_singleton] at hb
    rw [hb]; exact hnew e (hk.subset he)
  unfold addEntry
  split
  · rename_i h; unfold Config.listCapacity at h
    exact ⟨by simp; omega, hadd l (List.Sublist.refl l)⟩
  · split
    · rename_i w hw
      have hw := evicted_mem now l new w hw
      have hlt : (removeUnit l w.unit).length < l.length := by
        unfold removeUnit
        exact List.length_filter_lt_length_iff_exists.mpr ⟨w, hw, by simp⟩
      refine ⟨by simp; omega, hadd _ List.filter_sublist⟩
    · exact ⟨hl, hn⟩

/-- An ASK or HOLD heard keeps every list at 8 entries or fewer, one a unit at most (R124, R131). -/
theorem enterClaim_bounds (now : Time) (live : PeerClaim → Bool) (l : List PeerClaim) (new : PeerClaim)
    (hl : l.length ≤ 8) (hn : (l.map (·.unit)).Nodup) :
    (enterClaim now live l new).1.length ≤ 8 ∧ ((enterClaim now live l new).1.map (·.unit)).Nodup := by
  unfold enterClaim
  split
  · have hm : (modifyWhere (fun e => e.unit == new.unit) (fun _ => new) l).map (·.unit) = l.map (·.unit) := by
      unfold modifyWhere
      rw [List.map_map]
      refine List.map_congr_left fun e _ => ?_
      simp only [Function.comp]
      split
      · rename_i he; exact (beq_iff_eq.mp he).symm
      · rfl
    refine ⟨?_, ?_⟩
    · unfold modifyWhere; simpa using hl
    · show ((modifyWhere _ _ l).map _).Nodup; rw [hm]; exact hn
  · rename_i hnone
    refine addEntry_bounds now (l.filter live) new ((List.length_filter_le _ _).trans hl)
      (hn.sublist (List.filter_sublist.map _)) ?_
    intro e he
    have h := List.find?_eq_none.mp hnone e (List.mem_filter.mp he).1
    intro hu
    exact h (by simp [hu, (List.mem_filter.mp he).2])

/-! ### What prompts the test of R132 -/

theorem Rank.better_trans (a b c : Rank) (h : a.better b = true) (h' : b.better c = true) : a.better c = true := by
  simp only [Rank.better, Bool.or_eq_true, Bool.and_eq_true, decide_eq_true_eq, beq_iff_eq] at *
  omega

theorem Rank.eq_or_better (a b : Rank) (h : a.better b = false) : a = b ∨ b.better a = true := by
  obtain ⟨a1, a2, a3⟩ := a
  obtain ⟨b1, b2, b3⟩ := b
  simp [Rank.better] at h ⊢
  omega

theorem worstOf_none (l : List PeerClaim) : worstOf l = none ↔ l = [] := by
  cases l with
  | nil => simp [worstOf]
  | cons b l =>
    simp only [worstOf, reduceCtorEq, iff_false]
    split
    · simp
    · split <;> simp

/-- Every entry of a list has its worst entry's rank or a better one (R125). -/
theorem worstOf_worst (l : List PeerClaim) (w : PeerClaim) (h : worstOf l = some w) :
    ∀ e ∈ l, e.rank = w.rank ∨ e.rank.better w.rank = true := by
  induction l generalizing w with
  | nil => simp [worstOf] at h
  | cons a l ih =>
    simp only [worstOf] at h
    split at h
    · rename_i hn
      obtain rfl := Option.some.inj h
      simp [(worstOf_none l).1 hn]
    · rename_i v hv
      intro e he
      rcases List.mem_cons.1 he with rfl | he
      · split at h
        · rename_i hb; obtain rfl := Option.some.inj h; exact .inr hb
        · obtain rfl := Option.some.inj h; exact .inl rfl
      · have hev := ih v hv e he
        split at h
        · obtain rfl := Option.some.inj h; exact hev
        · rename_i hb
          obtain rfl := Option.some.inj h
          rcases Rank.eq_or_better a.rank v.rank (by simpa using hb) with hav | hva
          · rw [hav]; exact hev
          · rcases hev with hev | hev
            · rw [hev]; exact .inr hva
            · exact .inr (Rank.better_trans _ _ _ hev hva)

/-- An ASK prompts the test exactly where it replaces a live HOLD, or a live ASK of better rank than its own, or clears an
expired entry, or takes an ASK's place in a full list (R125, R132, log 19). -/
theorem enterClaim_prompts (now : Time) (live : PeerClaim → Bool) (l : List PeerClaim) (new : PeerClaim)
    (hn : (l.map (·.unit)).Nodup) (hk : new.kind = .ask) :
    (enterClaim now live l new).2 = true ↔
      (∃ e ∈ l, e.unit = new.unit ∧ live e = true ∧ (e.kind = .hold ∨ e.rank.better new.rank = true)) ∨
      (¬ (∃ e ∈ l, e.unit = new.unit ∧ live e = true) ∧ ∃ e ∈ l, live e = false) ∨
      (¬ (∃ e ∈ l, e.unit = new.unit ∧ live e = true) ∧ 8 ≤ l.length ∧
        ∃ e ∈ l, e.kind = .ask ∧ new.rank.better e.rank = true) := by
  unfold enterClaim
  cases hf : l.find? fun e => e.unit == new.unit && live e with
  | some old =>
    have h1 : old.unit = new.unit ∧ live old = true := by simpa using List.find?_some hf
    have h2 := List.mem_of_find?_eq_some hf
    have hr : ∃ e ∈ l, e.unit = new.unit ∧ live e = true := ⟨old, h2, h1⟩
    have hu : ∀ e ∈ l, e.unit = new.unit → e = old := fun e he hu =>
      List.inj_on_of_nodup_map hn he h2 (hu.trans h1.1.symm)
    simp only [hk, hr, not_true_eq_false, false_and, or_false, Bool.not_eq_true', Bool.and_eq_false_iff, beq_eq_false_iff_ne,
      ne_eq, beq_self_eq_true, Bool.true_eq_false, Bool.not_eq_false']
    constructor
    · intro h
      refine ⟨old, h2, h1.1, h1.2, ?_⟩
      rcases h with h | h
      · exact .inl (by cases hok : old.kind <;> simp_all)
      · exact .inr h
    · rintro ⟨e, he, heu, -, h⟩
      obtain rfl := hu e he heu
      rcases h with h | h
      · exact .inl (by rw [h]; decide)
      · exact .inr h
  | none =>
    have hr : ¬ ∃ e ∈ l, e.unit = new.unit ∧ live e = true := by
      rintro ⟨e, he, hu, hl⟩
      have := List.find?_eq_none.1 hf e he
      simp [hu, hl] at this
    have ha : ¬ ∃ e ∈ l, e.unit = new.unit ∧ live e = true ∧ (e.kind = .hold ∨ e.rank.better new.rank = true) := by
      rintro ⟨e, he, hu, hl, -⟩
      exact hr ⟨e, he, hu, hl⟩
    simp only [hr, ha, not_false_eq_true, true_and, false_or, Bool.or_eq_true, decide_eq_true_eq, Bool.and_eq_true]
    by_cases hg : ∃ e ∈ l, live e = false
    · refine iff_of_true (.inl ?_) (.inl hg)
      obtain ⟨e, he, hl⟩ := hg
      exact List.length_filter_lt_length_iff_exists.2 ⟨e, he, by simp [hl]⟩
    · have hall : l.filter live = l := List.filter_eq_self.2 fun e he => by
        by_contra hc; exact hg ⟨e, he, by simpa using hc⟩
      have hnew : new ∉ l := fun hm => hr ⟨new, hm, rfl, by
        by_contra hc; exact hg ⟨new, hm, by simpa using hc⟩⟩
      rw [hall]
      simp only [lt_self_iff_false, false_or, hg, Config.listCapacity]
      refine and_congr_right fun h8 => ?_
      have hw : ∀ w, worstOf (asksOf l) = some w → w ∈ l ∧ w.kind = .ask := fun w h => by
        simpa [asksOf] using worstOf_mem _ _ h
      simp only [addEntry, Config.listCapacity, Nat.not_lt.2 h8, if_false, evicted, hk]
      cases hwo : worstOf (asksOf l) with
      | none =>
        have := (worstOf_none _).1 hwo
        refine iff_of_false (by simpa using hnew) ?_
        rintro ⟨e, he, hek, -⟩
        have : e ∈ asksOf l := by simp [asksOf, he, hek]
        simp_all
      | some w =>
        by_cases hb : new.rank.better w.rank = true
        · simp only [if_pos hb]
          exact iff_of_true (by simp) ⟨w, (hw w hwo).1, (hw w hwo).2, hb⟩
        · simp only [if_neg hb]
          refine iff_of_false (by simpa using hnew) ?_
          rintro ⟨e, he, hek, hbe⟩
          rcases worstOf_worst _ _ hwo e (by simp [asksOf, he, hek]) with h | h
          · exact hb (h ▸ hbe)
          · exact hb (Rank.better_trans _ _ _ hbe h)

end Sys2Proof.Machine
end

