-- ==== Sys2Proof/Laws/PortFrames.lean ====
section
/-! SUPPORT. The blocks that the acts of start-up control and the bay port leave as they are.
One lemma an operation, its conjuncts simp lemmas. -/
namespace Sys2Proof.Machine

@[simp] theorem State.start_frame (s : State) (cause : StartCause) :
    (s.start cause).micros = s.micros ∧ (s.start cause).supplied = s.supplied ∧
    (s.start cause).freeCount = s.freeCount ∧ (s.start cause).pending = s.pending := by simp [State.start]

@[simp] theorem State.powerOnStart_frame (s : State) :
    s.powerOnStart.freeCount = s.freeCount ∧ s.powerOnStart.pending = s.pending := by simp [State.powerOnStart]

@[simp] theorem State.loseSupply_frame (s : State) :
    s.loseSupply.micros = s.micros ∧ s.loseSupply.image = s.image ∧ s.loseSupply.claims = s.claims ∧
    s.loseSupply.seq = s.seq ∧ s.loseSupply.pub = s.pub ∧
    s.loseSupply.pending = s.pending := by simp [State.loseSupply]

@[simp] theorem State.enterQuiet_frame (s : State) (m : YardModel) :
    (s.enterQuiet m).micros = s.micros ∧ (s.enterQuiet m).supplied = s.supplied ∧ (s.enterQuiet m).seq = s.seq ∧
    (s.enterQuiet m).link = s.link ∧ (s.enterQuiet m).port = s.port ∧ (s.enterQuiet m).freeCount = s.freeCount ∧
    (s.enterQuiet m).pending = s.pending := by simp [State.enterQuiet]

@[simp] theorem State.enterHalted_frame (s : State) (c : HaltCause) :
    (s.enterHalted c).micros = s.micros ∧ (s.enterHalted c).supplied = s.supplied ∧ (s.enterHalted c).bay = s.bay ∧
    (s.enterHalted c).image = s.image ∧ (s.enterHalted c).claims = s.claims ∧ (s.enterHalted c).seq = s.seq ∧
    (s.enterHalted c).pub = s.pub ∧ (s.enterHalted c).link = s.link ∧ (s.enterHalted c).port = s.port ∧
    (s.enterHalted c).freeCount = s.freeCount ∧ (s.enterHalted c).pending = s.pending := by simp [State.enterHalted]

@[simp] theorem State.enterHalt_seq (s : State) : s.enterHalt.seq = .start := rfl

@[simp] theorem State.enterHalt_frame (s : State) :
    s.enterHalt.micros = s.micros ∧ s.enterHalt.supplied = s.supplied ∧ s.enterHalt.bay = s.bay ∧
    s.enterHalt.image = s.image ∧ s.enterHalt.claims = s.claims ∧ s.enterHalt.pub = s.pub ∧
    s.enterHalt.link = s.link ∧ s.enterHalt.port = s.port ∧ s.enterHalt.freeCount = s.freeCount ∧
    s.enterHalt.pending = s.pending := by simp [State.enterHalt]

@[simp] theorem State.endLoading_frame (s : State) :
    s.endLoading.micros = s.micros ∧ s.endLoading.supplied = s.supplied ∧ s.endLoading.seq = s.seq ∧
    s.endLoading.link = s.link ∧ s.endLoading.port = s.port ∧ s.endLoading.freeCount = s.freeCount ∧
    s.endLoading.pending = s.pending := by simp only [State.endLoading]; split <;> simp

@[simp] theorem State.enterRun_frame (s : State) :
    s.enterRun.micros = s.micros ∧ s.enterRun.supplied = s.supplied ∧ s.enterRun.bay = s.bay ∧
    s.enterRun.image = s.image ∧ s.enterRun.claims = s.claims ∧ s.enterRun.seq = s.seq ∧ s.enterRun.port = s.port ∧
    s.enterRun.freeCount = s.freeCount ∧ s.enterRun.pending = s.pending := by simp [State.enterRun]

@[simp] theorem State.beginStop_frame (s : State) (why : StopReason) :
    (s.beginStop why).micros = s.micros ∧ (s.beginStop why).supplied = s.supplied ∧
    (s.beginStop why).image = s.image ∧ (s.beginStop why).claims = s.claims ∧ (s.beginStop why).seq = s.seq ∧
    (s.beginStop why).port = s.port ∧ (s.beginStop why).freeCount = s.freeCount ∧
    (s.beginStop why).pending = s.pending := by simp [State.beginStop]

@[simp] theorem State.reply_frame (s : State) (t : Tagged) (status : ReplyStatus) (body : ReplyBody) :
    (s.reply t status body).micros = s.micros ∧ (s.reply t status body).supplied = s.supplied ∧
    (s.reply t status body).ctl = s.ctl ∧ (s.reply t status body).bay = s.bay ∧
    (s.reply t status body).image = s.image ∧ (s.reply t status body).claims = s.claims ∧
    (s.reply t status body).seq = s.seq ∧ (s.reply t status body).pub = s.pub ∧
    (s.reply t status body).link = s.link ∧ (s.reply t status body).freeCount = s.freeCount ∧
    (s.reply t status body).pending = s.pending := by simp [State.reply]

@[simp] theorem State.release_frame (s : State) :
    s.release.micros = s.micros ∧ s.release.supplied = s.supplied ∧ s.release.ctl = s.ctl ∧ s.release.bay = s.bay ∧
    s.release.image = s.image ∧ s.release.claims = s.claims ∧ s.release.seq = s.seq ∧ s.release.pub = s.pub ∧
    s.release.link = s.link ∧ s.release.freeCount = s.freeCount ∧
    s.release.pending = s.pending := by simp [State.release]

@[simp] theorem State.answer_frame (s : State) (t : Tagged) (status : ReplyStatus) (body : ReplyBody) :
    (s.answer t status body).micros = s.micros ∧ (s.answer t status body).supplied = s.supplied ∧
    (s.answer t status body).ctl = s.ctl ∧ (s.answer t status body).bay = s.bay ∧
    (s.answer t status body).image = s.image ∧ (s.answer t status body).claims = s.claims ∧
    (s.answer t status body).seq = s.seq ∧ (s.answer t status body).pub = s.pub ∧
    (s.answer t status body).link = s.link ∧ (s.answer t status body).freeCount = s.freeCount ∧
    (s.answer t status body).pending = s.pending := by simp [State.answer]

@[simp] theorem State.takeReadStatus_frame (s : State) (t : Tagged) :
    (s.takeReadStatus t).micros = s.micros ∧ (s.takeReadStatus t).supplied = s.supplied ∧
    (s.takeReadStatus t).ctl = s.ctl ∧ (s.takeReadStatus t).bay = s.bay ∧ (s.takeReadStatus t).image = s.image ∧
    (s.takeReadStatus t).claims = s.claims ∧ (s.takeReadStatus t).seq = s.seq ∧ (s.takeReadStatus t).pub = s.pub ∧
    (s.takeReadStatus t).link = s.link ∧ (s.takeReadStatus t).freeCount = s.freeCount ∧
    (s.takeReadStatus t).pending = s.pending := by simp [State.takeReadStatus]

@[simp] theorem State.takeHalt_frame (s : State) (t : Tagged) :
    (s.takeHalt t).micros = s.micros ∧ (s.takeHalt t).supplied = s.supplied ∧ (s.takeHalt t).image = s.image ∧
    (s.takeHalt t).claims = s.claims ∧ (s.takeHalt t).freeCount = s.freeCount ∧
    (s.takeHalt t).pending = s.pending := by simp only [State.takeHalt]; (repeat' split) <;> simp

/-- A HALT keeps the sequencer, but one that halts at once leaves it as a start does (R16, R165). -/
theorem State.takeHalt_seq (s : State) (t : Tagged) :
    (s.takeHalt t).seq =
      if s.seq.queue = [] ∧ s.seq.active.isSome = false ∧ s.ctl.mode ≠ .run then Sequencer.start else s.seq := by
  unfold State.takeHalt
  (repeat' split) <;> simp_all

@[simp] theorem State.takeRestart_frame (s : State) (t : Tagged) :
    (s.takeRestart t).micros = s.micros ∧ (s.takeRestart t).supplied = s.supplied ∧
    (s.takeRestart t).freeCount = s.freeCount ∧
    (s.takeRestart t).pending = s.pending := by simp only [State.takeRestart]; split <;> simp

@[simp] theorem State.takeWriteConfig_frame (s : State) (t : Tagged) (offset : Nat) (data : List Byte) :
    (s.takeWriteConfig t offset data).micros = s.micros ∧ (s.takeWriteConfig t offset data).supplied = s.supplied ∧
    (s.takeWriteConfig t offset data).bay = s.bay ∧ (s.takeWriteConfig t offset data).image = s.image ∧
    (s.takeWriteConfig t offset data).claims = s.claims ∧ (s.takeWriteConfig t offset data).seq = s.seq ∧
    (s.takeWriteConfig t offset data).pub = s.pub ∧ (s.takeWriteConfig t offset data).link = s.link ∧
    (s.takeWriteConfig t offset data).freeCount = s.freeCount ∧
    (s.takeWriteConfig t offset data).pending = s.pending := by simp only [State.takeWriteConfig]; split <;> simp

@[simp] theorem State.takeProgram_frame (s : State) (t : Tagged) (urgency : Nat) (fields : List StepField) :
    (s.takeProgram t urgency fields).micros = s.micros ∧ (s.takeProgram t urgency fields).supplied = s.supplied ∧
    (s.takeProgram t urgency fields).ctl = s.ctl ∧ (s.takeProgram t urgency fields).freeCount = s.freeCount ∧
    (s.takeProgram t urgency fields).pending = s.pending := by simp only [State.takeProgram]; (repeat' split) <;> simp

@[simp] theorem State.takeCancel_frame (s : State) (t : Tagged) (handle : Nat) :
    (s.takeCancel t handle).micros = s.micros ∧ (s.takeCancel t handle).supplied = s.supplied ∧
    (s.takeCancel t handle).ctl = s.ctl ∧ (s.takeCancel t handle).freeCount = s.freeCount ∧
    (s.takeCancel t handle).pending = s.pending := by simp only [State.takeCancel]; split <;> simp

@[simp] theorem State.takeCheck_frame (s : State) (t : Tagged) (point target : Nat) :
    (s.takeCheck t point target).micros = s.micros ∧ (s.takeCheck t point target).supplied = s.supplied ∧
    (s.takeCheck t point target).ctl = s.ctl ∧ (s.takeCheck t point target).bay = s.bay ∧
    (s.takeCheck t point target).image = s.image ∧ (s.takeCheck t point target).claims = s.claims ∧
    (s.takeCheck t point target).seq = s.seq ∧ (s.takeCheck t point target).pub = s.pub ∧
    (s.takeCheck t point target).link = s.link ∧ (s.takeCheck t point target).freeCount = s.freeCount ∧
    (s.takeCheck t point target).pending = s.pending := by simp only [State.takeCheck]; (repeat' split) <;> simp

@[simp] theorem State.takeReadPoint_frame (s : State) (t : Tagged) (point : Nat) :
    (s.takeReadPoint t point).micros = s.micros ∧ (s.takeReadPoint t point).supplied = s.supplied ∧
    (s.takeReadPoint t point).ctl = s.ctl ∧ (s.takeReadPoint t point).bay = s.bay ∧
    (s.takeReadPoint t point).image = s.image ∧ (s.takeReadPoint t point).claims = s.claims ∧
    (s.takeReadPoint t point).seq = s.seq ∧ (s.takeReadPoint t point).pub = s.pub ∧
    (s.takeReadPoint t point).link = s.link ∧ (s.takeReadPoint t point).freeCount = s.freeCount ∧
    (s.takeReadPoint t point).pending = s.pending := by simp only [State.takeReadPoint]; split <;> simp

@[simp] theorem State.takeReadNode_frame (s : State) (t : Tagged) (node : Nat) :
    (s.takeReadNode t node).micros = s.micros ∧ (s.takeReadNode t node).supplied = s.supplied ∧
    (s.takeReadNode t node).ctl = s.ctl ∧ (s.takeReadNode t node).bay = s.bay ∧
    (s.takeReadNode t node).image = s.image ∧ (s.takeReadNode t node).claims = s.claims ∧
    (s.takeReadNode t node).seq = s.seq ∧ (s.takeReadNode t node).pub = s.pub ∧
    (s.takeReadNode t node).link = s.link ∧ (s.takeReadNode t node).freeCount = s.freeCount ∧
    (s.takeReadNode t node).pending = s.pending := by simp only [State.takeReadNode]; split <;> simp

@[simp] theorem State.takeReadEvent_frame (s : State) (t : Tagged) :
    (s.takeReadEvent t).micros = s.micros ∧ (s.takeReadEvent t).supplied = s.supplied ∧
    (s.takeReadEvent t).ctl = s.ctl ∧ (s.takeReadEvent t).bay = s.bay ∧ (s.takeReadEvent t).image = s.image ∧
    (s.takeReadEvent t).claims = s.claims ∧ (s.takeReadEvent t).seq = s.seq ∧ (s.takeReadEvent t).pub = s.pub ∧
    (s.takeReadEvent t).link = s.link ∧ (s.takeReadEvent t).freeCount = s.freeCount ∧
    (s.takeReadEvent t).pending = s.pending := by simp only [State.takeReadEvent]; split <;> simp

@[simp] theorem State.takeReadCapture_frame (s : State) (t : Tagged) :
    (s.takeReadCapture t).micros = s.micros ∧ (s.takeReadCapture t).supplied = s.supplied ∧
    (s.takeReadCapture t).ctl = s.ctl ∧ (s.takeReadCapture t).bay = s.bay ∧ (s.takeReadCapture t).image = s.image ∧
    (s.takeReadCapture t).claims = s.claims ∧ (s.takeReadCapture t).seq = s.seq ∧ (s.takeReadCapture t).pub = s.pub ∧
    (s.takeReadCapture t).link = s.link ∧ (s.takeReadCapture t).freeCount = s.freeCount ∧
    (s.takeReadCapture t).pending = s.pending := by simp only [State.takeReadCapture]; split <;> simp

@[simp] theorem State.takeUnlockCapture_frame (s : State) (t : Tagged) :
    (s.takeUnlockCapture t).micros = s.micros ∧ (s.takeUnlockCapture t).supplied = s.supplied ∧
    (s.takeUnlockCapture t).ctl = s.ctl ∧ (s.takeUnlockCapture t).bay = s.bay ∧
    (s.takeUnlockCapture t).image = s.image ∧ (s.takeUnlockCapture t).claims = s.claims ∧
    (s.takeUnlockCapture t).seq = s.seq ∧ (s.takeUnlockCapture t).pub = s.pub ∧
    (s.takeUnlockCapture t).link = s.link ∧ (s.takeUnlockCapture t).freeCount = s.freeCount ∧
    (s.takeUnlockCapture t).pending = s.pending := by simp [State.takeUnlockCapture]

@[simp] theorem State.clearSwitch_frame (s : State) (t : Tagged) (p : LocalPoint) :
    (s.clearSwitch t p).micros = s.micros ∧ (s.clearSwitch t p).supplied = s.supplied ∧
    (s.clearSwitch t p).ctl = s.ctl ∧ (s.clearSwitch t p).claims = s.claims ∧ (s.clearSwitch t p).seq = s.seq ∧
    (s.clearSwitch t p).freeCount = s.freeCount ∧
    (s.clearSwitch t p).pending = s.pending := by simp only [State.clearSwitch]; repeat' split <;> simp

@[simp] theorem State.takeClearFaultSwitch_frame (s : State) (t : Tagged) (point : Nat) :
    (s.takeClearFaultSwitch t point).micros = s.micros ∧ (s.takeClearFaultSwitch t point).supplied = s.supplied ∧
    (s.takeClearFaultSwitch t point).ctl = s.ctl ∧ (s.takeClearFaultSwitch t point).claims = s.claims ∧
    (s.takeClearFaultSwitch t point).seq = s.seq ∧ (s.takeClearFaultSwitch t point).freeCount = s.freeCount ∧
    (s.takeClearFaultSwitch t point).pending = s.pending := by simp only [State.takeClearFaultSwitch]; (repeat' split) <;> simp

@[simp] theorem State.takeClearFaultLink_frame (s : State) (t : Tagged) :
    (s.takeClearFaultLink t).micros = s.micros ∧ (s.takeClearFaultLink t).supplied = s.supplied ∧
    (s.takeClearFaultLink t).ctl = s.ctl ∧ (s.takeClearFaultLink t).bay = s.bay ∧
    (s.takeClearFaultLink t).image = s.image ∧ (s.takeClearFaultLink t).claims = s.claims ∧
    (s.takeClearFaultLink t).seq = s.seq ∧ (s.takeClearFaultLink t).freeCount = s.freeCount ∧
    (s.takeClearFaultLink t).pending = s.pending := by simp [State.takeClearFaultLink]

@[simp] theorem State.takeAdmitted_frame (s : State) (t : Tagged) :
    (s.takeAdmitted t).micros = s.micros ∧ (s.takeAdmitted t).supplied = s.supplied ∧
    (s.takeAdmitted t).freeCount = s.freeCount ∧
    (s.takeAdmitted t).pending = s.pending := by simp only [State.takeAdmitted]; split <;> simp

@[simp] theorem State.takeRequest_frame (s : State) (t : Tagged) :
    (s.takeRequest t).micros = s.micros ∧ (s.takeRequest t).supplied = s.supplied ∧
    (s.takeRequest t).freeCount = s.freeCount ∧
    (s.takeRequest t).pending = s.pending := by simp only [State.takeRequest]; split <;> simp

@[simp] theorem State.takeInPort_frame (s : State) (t : Tagged) :
    (s.takeInPort t).micros = s.micros ∧ (s.takeInPort t).supplied = s.supplied ∧
    (s.takeInPort t).freeCount = s.freeCount ∧ (s.takeInPort t).pending = s.pending := by simp [State.takeInPort]

@[simp] theorem State.pump_frame (s : State) :
    s.pump.micros = s.micros ∧ s.pump.supplied = s.supplied ∧ s.pump.freeCount = s.freeCount ∧
    s.pump.pending = s.pending := by simp only [State.pump]; split <;> simp

@[simp] theorem State.receiveRequest_frame (s : State) (t : Tagged) :
    (s.receiveRequest t).micros = s.micros ∧ (s.receiveRequest t).supplied = s.supplied ∧
    (s.receiveRequest t).freeCount = s.freeCount ∧
    (s.receiveRequest t).pending = s.pending := by simp only [State.receiveRequest]; (repeat' split) <;> simp

@[simp] theorem State.receiveRecord_frame (s : State) (record : List Byte) :
    (s.receiveRecord record).micros = s.micros ∧ (s.receiveRecord record).supplied = s.supplied ∧
    (s.receiveRecord record).freeCount = s.freeCount ∧
    (s.receiveRecord record).pending = s.pending := by simp only [State.receiveRecord]; split <;> simp

@[simp] theorem receiveRecords_frame (rs : List (List Byte)) (s : State) :
    (receiveRecords rs s).micros = s.micros ∧ (receiveRecords rs s).supplied = s.supplied ∧
    (receiveRecords rs s).freeCount = s.freeCount ∧ (receiveRecords rs s).pending = s.pending := by
  induction rs generalizing s with
  | nil => simp [receiveRecords]
  | cons r rest ih => simp [receiveRecords, ih]

@[simp] theorem State.haltAnswered_frame (s : State) :
    s.haltAnswered.micros = s.micros ∧ s.haltAnswered.supplied = s.supplied ∧ s.haltAnswered.bay = s.bay ∧
    s.haltAnswered.image = s.image ∧ s.haltAnswered.claims = s.claims ∧ s.haltAnswered.seq = .start ∧
    s.haltAnswered.pub = s.pub ∧ s.haltAnswered.link = s.link ∧ s.haltAnswered.freeCount = s.freeCount ∧
    s.haltAnswered.pending = s.pending := by simp only [State.haltAnswered]; split <;> simp

@[simp] theorem State.finishStop_frame (s : State) :
    s.finishStop.micros = s.micros ∧ s.finishStop.supplied = s.supplied ∧ s.finishStop.freeCount = s.freeCount ∧
    s.finishStop.pending = s.pending := by simp only [State.finishStop]; split <;> simp

@[simp] theorem State.nextStopFrame_frame (s : State) :
    s.nextStopFrame.micros = s.micros ∧ s.nextStopFrame.supplied = s.supplied ∧
    s.nextStopFrame.freeCount = s.freeCount ∧
    s.nextStopFrame.pending = s.pending := by simp only [State.nextStopFrame]; split <;> simp

@[simp] theorem State.blockStored_frame (s : State) (w : BlockWrite) :
    (s.blockStored w).micros = s.micros ∧ (s.blockStored w).supplied = s.supplied ∧
    (s.blockStored w).freeCount = s.freeCount ∧
    (s.blockStored w).pending = s.pending := by simp only [State.blockStored]; split <;> simp

end Sys2Proof.Machine
end

