-- ==== Sys2Proof/Laws/Acts.lean ====
section
/-! SUPPORT. The shared operations in the manual's terms: what a claim, an ended program, a give-back, a failure, a mute
and a request taken make of a state, said once each. -/
namespace Sys2Proof.Machine

/-! ### Lists changed by key -/

theorem State.mapPoint_eq (s : State) (id : Nat) (f : LocalPoint → LocalPoint) : s.mapPoint id f = s.pointSet id f := by
  unfold State.mapPoint State.pointSet modifyWhere State.setBay
  simp only [beq_iff_eq]

/-! ### Own claims -/

theorem State.askZone_eq (s : State) (z : Nat) : s.askZone z = s.asks z := by
  unfold State.askZone
  rw [State.setOwn_eq]; rfl

theorem State.holdZone_eq (s : State) (z : Nat) : s.holdZone z = s.holds z := by
  unfold State.holdZone
  rw [State.setOwn_eq]; rfl

theorem State.loseWindow_eq (s : State) (z : Nat) : s.loseWindow z = s.loses z := by
  unfold State.loseWindow
  rw [State.setOwn_eq]; rfl

/-! ### Failures (R34) -/

theorem State.offerCapture_eq (s : State) (c : Capture) :
    s.offerCapture c = { s with port := { s.port with capture := some (s.port.capture.getD c) } } := by
  unfold State.offerCapture
  cases h : s.port.capture <;> simp only [State.setPort, Option.getD_none, Option.getD_some]
  rw [← h]

/-- Events joining the queue leave the capture alone, whatever it is. -/
theorem State.raise_capture (l : List EventBody) (s t : State) (c : Option Capture)
    (hp : t.port = { s.port with capture := c }) (hm : t.micros = s.micros) :
    (t.raise l).port = { (s.raise l).port with capture := c } := by
  induction l generalizing s t with
  | nil => exact hp
  | cons b l ih =>
    refine ih (s.event b) (t.event b) ?_ (by simpa using hm)
    unfold State.event
    rw [hp]
    split <;> simp [State.setPort, State.now, hm]

/-- A fault offered to the capture and raised by events: the port has both, and nothing else changes. -/
theorem State.offer_raise (s : State) (c : Capture) (l : List EventBody) :
    (s.offerCapture c).raise l =
      { s with port := { (s.raise l).port with capture := some (s.port.capture.getD c) } } := by
  rw [State.raise_eq, State.raise_capture l s _ (some (s.port.capture.getD c)) (by rw [State.offerCapture_eq])
    (by rw [State.offerCapture_eq]), State.offerCapture_eq]

/-- A failure of a switch: steps 1 to 5, then the update handed to the image. -/
theorem State.failSwitch_eq (s : State) (kind : FaultKind) (id : Nat) (order : Option (Nat × Nat)) :
    s.failSwitch kind id order = (s.afterFailure kind id order).handOver id := by
  have value : ∀ u : State, u.bay.points = s.bay.points →
      ((u.markSuspect id).localPoint? id).bind (·.value) = (s.localPoint? id).bind (·.value) := by
    intro u hu
    unfold State.markSuspect State.localPoint? State.mapPoint
    rw [State.setBay_bay]
    have := find_modify_key LocalPoint.id id (fun q => { q with suspect := true, stuck := none }) (fun _ => rfl)
      u.bay.points id
    rw [hu] at this ⊢
    dsimp only
    rw [this]
    cases s.bay.points.find? (fun p => p.id == id) <;> simp
  unfold State.failSwitch
  dsimp only
  refine congrArg (State.handOver · id) ?_
  rw [← State.raise_one (State.event _ _), ← State.raise_cons, State.offer_raise]
  cases order with
  | none =>
    simp only [Option.isSome_none, Bool.false_eq_true, if_false]
    unfold State.failureCapture
    rw [value s rfl, State.raise_port_congr (s := s.markSuspect id) (t := s) _ rfl rfl]
    unfold State.markSuspect
    rw [State.mapPoint_eq]
    rfl
  | some o =>
    simp only [Option.isSome_some, if_true]
    unfold State.failureCapture
    rw [value s.dropDrive rfl, State.raise_port_congr (s := s.dropDrive.markSuspect id) (t := s) _ rfl rfl]
    unfold State.markSuspect
    rw [State.mapPoint_eq]
    rfl

/-! ### The end of a program (R162) -/

/-- The active program ends with its status, and nothing else happens but the drops and the event. -/
theorem State.endActive_ended {s : State} {p : Program} (h : s.seq.active = some p) (e : EndStatus) :
    EndedWith s (s.endActive e) p e := by
  let s1 := s.mapActive fun q => { q with phase := .finished, ending := some e }
  let d := State.dropZones p.zones s1
  have hd : s.endActive e =
      { s with
        seq := { s.seq with active := none }, claims := { d.claims with job := none }, link := d.link
        port := (s.event (.programEnd p.handle e)).port } := by
    unfold State.endActive
    rw [h]
    dsimp only
    rw [State.event_eq, State.dropZones_eq]
    refine congrArg (fun q : Port => { s with
        seq := { s.seq with active := none }, claims := { d.claims with job := none }, link := d.link, port := q }) ?_
    exact State.event_port_congr _ rfl rfl
  have own1 : ∀ z, s1.own z = s.own z := State.own_congr (by simp [s1])
  have own : ∀ z, (s.endActive e).own z = if z ∈ p.zones then .idle else s.own z := by
    intro z
    rw [hd]
    show d.own z = _
    rw [State.own_dropZones, own1]
  refine ⟨by rw [hd], own, ?_, by rw [hd], ?_, by rw [hd, State.raise_one], ?_⟩
  · intro z
    rw [hd]
    show d.peersOf z = _
    rw [State.peersOf_dropZones]
    exact State.peersOf_congr (by simp [s1]) z
  · intro hn
    rw [hd]
    show d.link = _
    rw [State.link_dropZones _ _ hn]
    simp only [own1]
    exact State.offers_link_congr _ (by simp [s1]) (by simp [s1]) (by simp [s1]) (by simp [s1])
  · rw [hd]

/-! ### Give-backs (R136, R161) -/

theorem State.claimOrder_eq (s : State) (zones : List Nat) :
    s.claimOrder zones =
      { s with claims := (s.claimOrder zones).claims, link := (s.claimOrder zones).link } := by
  unfold State.claimOrder
  cases zones with
  | nil => rfl
  | cons z rest =>
    unfold State.askZone
    dsimp only
    rw [State.offer_eq]; rfl

theorem State.claimOrder_claims (s : State) (zones : List Nat) :
    (s.claimOrder zones).claims.job = some zones ∧ (∀ z, (s.claimOrder zones).peersOf z = s.peersOf z) ∧
    ∀ low rest, zones = low :: rest → (s.zone? low).isSome = true →
      (∀ z, (s.claimOrder zones).own z = if z = low then s.askingNow else s.own z) ∧
      (s.claimOrder zones).link = (s.offer (.ask low s.ownUrgency s.ownDefer (2 * s.params.window))).link := by
  unfold State.claimOrder
  cases zones with
  | nil => exact ⟨rfl, fun z => rfl, nofun⟩
  | cons x xs =>
    unfold State.askZone
    dsimp only
    refine ⟨by rw [State.offer_eq]; rfl, ?_, ?_⟩
    · intro z
      rw [State.peersOf_congr (t := (s.setJob (some (x :: xs))).setOwn x _) (by rw [State.offer_eq]) z,
        State.peersOf_setOwn]
      rfl
    · intro low rest hz hs
      obtain ⟨rfl, rfl⟩ := List.cons.inj hz
      refine ⟨?_, ?_⟩
      · intro z
        rw [State.own_congr (t := (s.setJob (some (x :: xs))).setOwn x _) (by rw [State.offer_eq]) z,
          State.own_setOwn, show ((s.setJob (some (x :: xs))).zone? x).isSome = true from hs]
        simp only [and_true]
        rfl
      · exact State.offer_link_congr _ rfl rfl rfl rfl

/-- A give-back of the active program. -/
theorem State.giveBack_given {s : State} {p : Program} (h : s.seq.active = some p) (cause : YieldCause) (y : YieldFrom) :
    GivenBack s (s.giveBack cause y) p cause y := by
  let d := State.dropZones p.zones s
  let v := d.event (.claimYielded y.zone cause y.unit p.handle)
  let g := v.claimOrder p.zones
  have hd : d = { s with claims := d.claims, link := d.link } := State.dropZones_eq _ _
  have hv : v = { d with port := v.port } := State.event_eq _ _
  have hg : g = { v with claims := g.claims, link := g.link } := State.claimOrder_eq _ _
  have hp : v.port = (s.raise [.claimYielded y.zone cause y.unit p.handle]).port :=
    State.event_port_congr _ (by rw [hd]) (by rw [hd])
  have ha : g.seq.active = some p := by rw [hg, hv, hd]; exact h
  have ht : s.giveBack cause y =
      { s with
        seq := { s.seq with active := some { p with phase := .claiming } }, claims := g.claims, link := g.link
        port := (s.raise [.claimYielded y.zone cause y.unit p.handle]).port } := by
    unfold State.giveBack
    rw [h]
    show g.setPhase .claiming = _
    unfold State.setPhase State.mapActive State.setSeq
    rw [ha, ← hp]
    rw [hg, hv, hd]
    rfl
  have hc : v.claims = d.claims := by rw [hv]
  have own : ∀ z, v.own z = if z ∈ p.zones then .idle else s.own z := fun z =>
    (State.own_congr hc z).trans (State.own_dropZones _ _ z)
  obtain ⟨job, lists, orders⟩ := State.claimOrder_claims v p.zones
  refine ⟨by rw [ht], ?_, ?_, by rw [ht]; exact job, by rw [ht], by rw [ht]⟩
  · intro low rest hz hs
    have hl : (v.zone? low).isSome = true := by
      rw [State.zone_congr hc, State.isSome_zone_dropZones]; exact hs
    obtain ⟨o, l⟩ := orders low rest hz hl
    refine ⟨?_, ?_⟩
    · intro z
      rw [ht]
      show g.own z = _
      rw [o z, own z, hz]
      have : v.askingNow = s.askingNow := by rw [hv, hd]; rfl
      rw [this]
      by_cases h1 : z = low <;> simp [h1]
    · intro hn
      rw [ht]
      show g.link = _
      have hu : v.ownUrgency = p.urgency := by
        rw [hv, hd]; show (s.seq.active.map (·.urgency)).getD 0 = _; rw [h]; rfl
      have hf : v.ownDefer = p.defer := by
        rw [hv, hd]; show (s.seq.active.map (·.defer)).getD 0 = _; rw [h]; rfl
      have hw : v.params = s.params := by rw [hv, hd]; rfl
      rw [l, hu, hf, hw, State.offers_append]
      refine State.offer_link_congr _ ?_ ?_ ?_ ?_
      · rw [hv]
        exact State.link_dropZones _ _ hn
      · rw [hv, hd]; simp
      · rw [hv, hd]; simp
      · rw [hv, hd]; simp
  · intro z
    rw [ht]
    show g.peersOf z = _
    rw [lists z, State.peersOf_congr hc z, State.peersOf_dropZones]

/-! ### Muting (R99) -/

/-- The ends of queued programs are events and nothing else. -/
theorem endQueued_eq (reason : Reason) (l : List Program) (s : State) :
    endQueued reason l s = s.raise (queueEnds reason l) := by
  induction l generalizing s with
  | nil => rfl
  | cons p l ih => exact ih _

theorem State.abortQueue_eq (s : State) (reason : Reason) :
    s.abortQueue reason =
      { s with
        seq := { s.seq with queue := [] }, port := (s.raise (queueEnds reason s.seq.queue)).port } := by
  unfold State.abortQueue
  dsimp only
  rw [endQueued_eq, State.raise_eq]
  rfl

theorem State.dropZones_idle (l : List Nat) (s : State) (h : ∀ z ∈ l, s.own z = .idle) : State.dropZones l s = s := by
  induction l with
  | nil => rfl
  | cons z l ih =>
    show State.dropZones l (s.dropZone z) = s
    rw [(s.dropZone_cases z).1 (h z (by simp))]
    exact ih fun y hy => h y (by simp [hy])

/-- The active program ends while none of its zones is claimed: no DROP is offered. -/
theorem State.endActive_idle {s : State} {p : Program} (h : s.seq.active = some p) (e : EndStatus)
    (hz : ∀ z ∈ p.zones, s.own z = .idle) :
    s.endActive e =
      { s with
        seq := { s.seq with active := none }, claims := { s.claims with job := none }
        port := (s.raise [.programEnd p.handle e]).port } := by
  unfold State.endActive
  rw [h]
  dsimp only
  rw [State.dropZones_idle _ _ (fun z m => (State.own_congr (by simp) z).trans (hz z m)), State.event_eq]
  refine congrArg (fun q : Port => { s with
      seq := { s.seq with active := none }, claims := { s.claims with job := none }, port := q }) ?_
  exact State.event_port_congr _ rfl rfl

theorem State.own_claimsMuted (s : State) (z : Nat) : s.claimsMuted.own z = .idle := by
  unfold State.claimsMuted State.own State.zone?
  rw [State.setClaims_claims]
  dsimp only
  rw [find_map_key (fun c : ZoneClaim => c.zone) (fun c => { c with own := .idle }) (fun _ => rfl)]
  cases s.claims.zones.find? fun c => c.zone == z <;> rfl

/-- What a mute makes of the programs, once every own claim is IDLE. -/
theorem State.programsMuted_eq (s : State) (hi : ∀ z, s.own z = .idle) (hj : s.claims.job = none) :
    s.programsMuted =
      { s with
        seq := { s.seq with
          queue := []
          active := s.seq.active.bind fun p =>
            if p.phase = .driving then some { p with pendingStop := some (p.pendingStop.getD .linkMuted) } else none }
        port := (s.raise ((s.seq.active.toList.filter fun p => p.phase ≠ .driving).map (fun p =>
          .programEnd p.handle (plainEnd .aborted (some .linkMuted) p.stepIndex)) ++
            queueEnds .linkMuted s.seq.queue)).port } := by
  unfold State.programsMuted
  rw [State.abortQueue_eq]
  cases h : s.seq.active with
  | none =>
    unfold State.stopActive
    simp [h]
  | some p =>
    by_cases hp : p.phase = .driving
    · unfold State.stopActive
      simp only [h, hp, if_true, Option.bind_some, Option.toList_some]
      refine congrArg₂ (fun (a : Option Program) (q : Port) =>
        { s with seq := { s.seq with queue := [], active := a }, port := q }) ?_ ?_
      · simp [State.mapActive, h, hp]
      · simp only [List.filter, hp, ne_eq, not_true_eq_false, decide_false, List.map_nil, List.nil_append]
        exact State.raise_port_congr _ rfl rfl
    · have : s.stopActive .linkMuted = s.endActive (plainEnd .aborted (some .linkMuted) p.stepIndex) := by
        unfold State.stopActive
        rw [h]
        simp only [hp, if_false]
        rfl
      rw [this, State.endActive_idle h _ fun z _ => hi z]
      simp only [hp, if_false, Option.bind_some, Option.toList_some, ne_eq, not_false_eq_true, decide_true,
        List.filter_cons_of_pos, List.filter_nil, List.map_cons, List.map_nil, List.cons_append, List.nil_append]
      refine congrArg₂ (fun (a : Claims) (q : Port) =>
        { s with seq := { s.seq with queue := [], active := none }, claims := a, port := q }) ?_ ?_
      · rw [← hj]
      · rw [State.raise_cons]
        exact State.raise_port_congr _ rfl (by simp)

/-- The link enters MUTED, as R99 orders it. -/
theorem State.enterMuted_muted (s : State) (kind : FaultKind) : LinkMuted s (s.enterMuted kind) kind := by
  let s1 := s.setLink (s.link.muted (kind == .duplicateUnit))
  let v := (s1.offerCapture (s1.linkCapture kind)).raise [.fault s.unit kind, .linkMuted s.unit kind]
  have hv : v = { s1 with port := { (s1.raise [.fault s.unit kind, .linkMuted s.unit kind]).port with
      capture := some (s1.port.capture.getD (s1.linkCapture kind)) } } := State.offer_raise _ _ _
  have hm := State.programsMuted_eq v.claimsMuted (State.own_claimsMuted v) rfl
  have he : s.enterMuted kind = v.claimsMuted.programsMuted.stopSchedule.armProbe := rfl
  have hp : v.claimsMuted.port = { (s.raise [.fault s.unit kind, .linkMuted s.unit kind]).port with
      capture := some (s.port.capture.getD (s1.linkCapture kind)) } := by
    rw [hv, State.raise_port_congr (s := s1) (t := s) _ rfl rfl]; rfl
  have hc := fun l => State.raise_capture l _ v.claimsMuted _ hp (by rw [hv]; simp [State.claimsMuted, s1])
  rw [he, hm, hc, ← State.raise_append, hv]
  refine ⟨rfl, rfl, rfl, ?_, rfl, rfl⟩
  rw [List.append_assoc]
  rfl

/-! ### Requests taken (R166) -/

/-- A request's command hands the request to the port. -/
theorem exec_commandOf (tag : Byte) {r : Request} (h : Sendable r) (s : State) :
    exec (commandOf tag r) s = .next (s.receiveRequest ⟨tag, r⟩) := by
  cases r
  case writeConfig offset data =>
    have h : data.length = Config.blockBytes := h
    simp [commandOf, exec, execWriteConfig, h]
  case unknown type =>
    have h : knownTypes.contains type = false := h
    simp only [commandOf, exec, execUnknownRequestType]
    rw [if_neg (by rw [h]; exact Bool.false_ne_true)]
  all_goals rfl

/-- A unit that is free takes a request at once. -/
theorem State.receive_free {s : State} (h : s.free) (t : Tagged) :
    s.receiveRequest t = (s.holding t.tag t.request).takeRequest t := by
  unfold State.receiveRequest
  rw [h.1, h.2]; rfl

/-- The answer to the request in hand is one reply, and nothing else changes. -/
theorem State.answer_holding (s : State) (t : Tagged) (status : ReplyStatus) (body : ReplyBody) :
    (s.holding t.tag t.request).answer t status body = s.replied (requestTypeCode t.request) t.tag status body := rfl

/-- A request that the mode refuses is answered with the refusal. -/
theorem State.take_refused {s : State} {t : Tagged} {r : ReplyStatus}
    (h : modeRefusal s.ctl.mode (requestRow t.request) = some r) : s.takeRequest t = s.answer t r .none := by
  unfold State.takeRequest; rw [h]

/-- A request that the mode admits is taken. -/
theorem State.take_admitted {s : State} {t : Tagged}
    (h : modeRefusal s.ctl.mode (requestRow t.request) = none) : s.takeRequest t = s.takeAdmitted t := by
  unfold State.takeRequest; rw [h]

end Sys2Proof.Machine
end

