-- ==== Sys2Proof/Laws/Colouring.lean ====
section
/-! SUPPORT. What the colouring's and the evaluator's lists are in the words of Safety.lean. -/
namespace Sys2Proof.Machine

/-! ### Paths, sources and seeds (R64 to R66) -/

@[simp] theorem ccOnly_iff (k : SwitchClass) : ccOnly k = true ↔ k = .cc := by cases k <;> simp [ccOnly]
@[simp] theorem ccOrUn_iff (k : SwitchClass) : ccOrUn k = true ↔ k ≠ .co := by cases k <;> simp [ccOrUn]
@[simp] theorem vpOnly_iff (k : VoltageClass) : vpOnly k = true ↔ k = .vp := by cases k <;> simp [vpOnly]
@[simp] theorem vpOrVu_iff (k : VoltageClass) : vpOrVu k = true ↔ k ≠ .va := by cases k <;> simp [vpOrVu]

/-- The paths a search may use join exactly the nodes that a switch of an admitted class joins. -/
theorem joined_pathsOf (s : State) (r : Reading) (pr : Option Prospect) (allow : SwitchClass → Bool)
    (ok : SwitchClass → Prop) (h : ∀ k, allow k = true ↔ ok k) (out : Option Nat) :
    Machine.Joined (pathsOf (s.classedSwitches r pr) allow out) = s.joinedBy r pr ok out := by
  funext a b
  simp only [Machine.Joined, pathsOf, State.classedSwitches, State.joinedBy, List.mem_map, List.mem_filter, eq_iff_iff]
  constructor
  · rintro (⟨w, ⟨⟨p, ⟨hp, hk⟩, rfl⟩, hw⟩, he⟩ | ⟨w, ⟨⟨p, ⟨hp, hk⟩, rfl⟩, hw⟩, he⟩) <;>
    · refine ⟨p, hp, ?_⟩
      cases hk' : p.kind <;> simp_all [PointKind.isSwitch]
  · rintro ⟨p, hp, hk, h1, h2, (⟨h3, h4⟩ | ⟨h3, h4⟩)⟩
    · left; refine ⟨_, ⟨⟨p, ⟨hp, ?_⟩, rfl⟩, ?_⟩, ?_⟩ <;> rcases hk with hk | hk <;> simp_all [PointKind.isSwitch]
    · right; refine ⟨_, ⟨⟨p, ⟨hp, ?_⟩, rfl⟩, ?_⟩, ?_⟩ <;> rcases hk with hk | hk <;> simp_all [PointKind.isSwitch]

/-- The source nodes of the admitted classes (R61, R65). -/
theorem mem_sourceNodes (s : State) (r : Reading) (allow : VoltageClass → Bool) (ok : VoltageClass → Prop)
    (h : ∀ k, allow k = true ↔ ok k) (n : Nat) : n ∈ sourceNodes (s.classedSources r) allow ↔ s.sourceAt r ok n := by
  simp only [sourceNodes, State.classedSources, State.sourceAt, ← h, List.mem_map, List.mem_filter]
  constructor
  · rintro ⟨a, ⟨⟨p, ⟨hp, hk⟩, rfl⟩, h1⟩, h2⟩; exact ⟨p, hp, by simpa using hk, by simpa using h2, h1⟩
  · rintro ⟨p, hp, hk, h2, h3⟩; exact ⟨_, ⟨⟨p, ⟨hp, by simpa using hk⟩, rfl⟩, h3⟩, h2⟩

/-- The nodes that carry an earthing switch of the admitted classes (R66). -/
theorem mem_earthSeeds (s : State) (r : Reading) (pr : Option Prospect) (allow : SwitchClass → Bool)
    (ok : SwitchClass → Prop) (h : ∀ k, allow k = true ↔ ok k) (n : Nat) :
    n ∈ earthSeeds (s.classedSwitches r pr) allow ↔ s.earthAt r pr ok n := by
  simp only [earthSeeds, State.classedSwitches, State.earthAt, ← h, List.mem_map, List.mem_filter]
  constructor
  · rintro ⟨a, ⟨⟨p, ⟨hp, hk⟩, rfl⟩, h1⟩, h3⟩
    simp at h1
    exact ⟨p, hp, h1.1, h3, h1.2⟩
  · rintro ⟨p, hp, hk, h2, h3⟩
    exact ⟨_, ⟨⟨p, ⟨hp, by simp [hk, PointKind.isSwitch]⟩, rfl⟩, by simp [hk, h3]⟩, h2⟩

/-- In a favourable reading no switch is unsure (R63). -/
theorem switchClass_sure (s : State) (r : Reading) (pr : Option Prospect) (id : Nat) (h : r ≠ .plain) :
    s.switchClass r pr id ≠ .un := by
  unfold State.switchClass State.switchClass.base plainSwitchClass
  cases r <;> simp_all <;> (repeat' split) <;> simp_all [Target.forced, SwitchClass.under] <;> (repeat' split) <;> simp_all

/-- In a favourable reading no voltage point is unsure (R63). -/
theorem voltageClass_sure (s : State) (r : Reading) (id : Nat) (h : r ≠ .plain) : s.voltageClass r id ≠ .vu := by
  unfold State.voltageClass plainVoltageClass
  cases r <;> simp_all <;> (repeat' split) <;> simp_all [VoltageClass.under]

/-! ### The evaluator's checks (R80, R84) -/

/-- A condition that is met does not fail (R80). -/
theorem conditionFails_of_meets (s : State) (c : Condition) (h : s.meets c) : s.conditionFails c = none := by
  obtain ⟨e, h1, h2, h3, h4⟩ := h
  unfold State.conditionFails
  rw [h1]
  simp only [h2, h3]
  cases hk : e.kind.isSwitch <;> simp_all

/-- Conditions that are all met pass check 3 (R80). -/
theorem checkConditions_of_meets (s : State) (l : List Condition) (h : ∀ c ∈ l, s.meets c) (i : Nat) :
    s.checkConditions i l = none := by
  induction l generalizing i with
  | nil => rfl
  | cons c l ih =>
    simp [State.checkConditions, conditionFails_of_meets s c (h c (by simp)), ih fun d hd => h d (by simp [hd])]

/-- A list without a lowest node is empty. -/
theorem lowest_eq_none (l : List Nat) : lowest l = none ↔ l = [] := by
  have H : ∀ (l : List Nat) (a : Option Nat),
      l.foldl (fun acc n => match acc with | none => some n | some m => some (min m n)) a = none ↔ l = [] ∧ a = none := by
    intro l
    induction l with
    | nil => intro a; simp
    | cons x l ih => intro a; rw [List.foldl_cons, ih]; cases a <;> simp
  constructor
  · exact fun h => ((H l none).1 h).1
  · rintro rfl; rfl

theorem offends_iff (c : Colouring) (n : Nat) : c.offends n = true ↔ c.live n ≠ .no ∧ c.earthed n ≠ .no := by
  simp [Colouring.offends]

end Sys2Proof.Machine
end

