-- ==== Sys2Proof/Laws/Loading.lean ====
section
/-! SUPPORT. What the bytes of an image are read as, and what the validity checks say of it, in the words of Safety.lean (R12,
R182, section 12.6). -/
namespace Sys2Proof.Machine

/-! ### Numbers as bytes (R179) -/

@[simp] theorem toNat_byteOf (n : Nat) (h : n < 256) : (byteOf n).toNat = n := by
  simp [byteOf, Nat.mod_eq_of_lt h]

@[simp] theorem length_enc16 (n : Nat) : (enc16 n).length = 2 := rfl

@[simp] theorem byteOf_toNat (b : Byte) : byteOf b.toNat = b := by simp [byteOf]

@[simp] theorem dec16_enc16 (n : Nat) (h : n < 65536) : dec16 (byteOf (n / 256)) (byteOf n) = n := by
  simp only [dec16, byteOf, BitVec.toNat_ofNat]; omega

@[simp] theorem enc16_dec16 (a b : Byte) : enc16 (dec16 a b) = [a, b] := by
  have ha := a.isLt
  have hb := b.isLt
  simp only [enc16, dec16, byteOf, List.cons.injEq, and_true]
  constructor <;> apply BitVec.eq_of_toNat_eq <;> simp only [BitVec.toNat_ofNat] <;> omega

theorem dec16_lt (a b : Byte) : dec16 a b < 65536 := by
  have ha := a.isLt
  have hb := b.isLt
  simp only [dec16]; omega

/-- The bytes of the store from an address on, one by one. -/
theorem storeBytes_eq (m : List Host.Cell) (n a : Nat) : storeBytes m a n = (List.range n).map fun i => storeRead m (a + i) := by
  induction n generalizing a with
  | zero => rfl
  | succ n ih =>
    rw [storeBytes, ih, List.range_succ_eq_map]
    simp [Function.comp_def, Nat.add_assoc, Nat.add_comm 1]

/-- Bytes that are sealed carry a good CRC (R179). -/
theorem crcGood_sealCrc (bs : List Byte) : crcGood (sealCrc bs) = true := by
  simp [crcGood, sealCrc, enc16]

/-- Bytes with a good CRC are the sealed bytes before it (R179). -/
theorem sealCrc_take (bs : List Byte) (h : crcGood bs = true) : sealCrc (bs.take (bs.length - 2)) = bs := by
  simp only [crcGood, Bool.and_eq_true, decide_eq_true_eq, beq_iff_eq] at h
  rw [sealCrc, ← h.2, List.take_append_drop]

/-! ### Reading what was written -/

theorem readPoints_bytes (ps : List RawPoint) (h : ∀ p ∈ ps, p.Fits) (rest : List Byte) :
    readPoints ps.length (ps.flatMap RawPoint.bytes ++ rest) = some (ps, rest) := by
  induction ps with
  | nil => rfl
  | cons p ps ih =>
    obtain ⟨h1, h2, h3, h4, h5⟩ := h p (by simp)
    simp [RawPoint.bytes, enc16, readPoints, ih fun q hq => h q (by simp [hq]), h1, h2, h3, h4, h5]

theorem readConditions_bytes (cs : List RawCondition) (h : ∀ c ∈ cs, c.point < 65536) (rest : List Byte) :
    readConditions cs.length (cs.flatMap RawCondition.bytes ++ rest) = some (cs, rest) := by
  induction cs with
  | nil => rfl
  | cons c cs ih =>
    simp [RawCondition.bytes, enc16, readConditions, ih fun q hq => h q (by simp [hq]), h c (by simp)]

theorem readLocal_bytes (l : RawLocal) (h : l.Fits) (rest : List Byte) :
    readLocal (l.bytes ++ rest) =
      if l.closeConditions.length ≤ 4 ∧ l.openConditions.length ≤ 4 then some (l, rest) else none := by
  obtain ⟨h1, h2, h3, h4, h5, h6, h7, h8⟩ := h
  simp only [RawLocal.bytes, enc16, List.cons_append, List.nil_append, List.append_assoc, readLocal, toNat_byteOf _ h6,
    toNat_byteOf _ h7, toNat_byteOf _ h2, toNat_byteOf _ h3, dec16_enc16 _ h1, dec16_enc16 _ h4, dec16_enc16 _ h5,
    List.flatMap_append]
  rw [readConditions_bytes l.closeConditions fun c hc => h8 c (List.mem_append_left _ hc)]
  simp only [readConditions_bytes l.openConditions fun c hc => h8 c (List.mem_append_right _ hc)]
  rfl

theorem readLocals_bytes (ls : List RawLocal) (h : ∀ l ∈ ls, l.Fits) (rest : List Byte) :
    readLocals ls.length (ls.flatMap RawLocal.bytes ++ rest) =
      if ∀ l ∈ ls, l.closeConditions.length ≤ 4 ∧ l.openConditions.length ≤ 4 then some (ls, rest) else none := by
  induction ls with
  | nil => rfl
  | cons l ls ih =>
    simp only [List.flatMap_cons, List.append_assoc, List.length_cons, readLocals, readLocal_bytes l (h l (by simp)),
      List.forall_mem_cons]
    by_cases hl : l.closeConditions.length ≤ 4 ∧ l.openConditions.length ≤ 4
    · rw [if_pos hl]
      simp only [ih fun q hq => h q (by simp [hq]), hl, true_and]
      split <;> simp
    · rw [if_neg hl]
      simp only [hl, false_and, if_false]

theorem map_toNat_byteOf (l : List Nat) (h : ∀ n ∈ l, n < 256) : (l.map byteOf).map (·.toNat) = l := by
  induction l with
  | nil => rfl
  | cons a l ih => simp [h a (by simp), ih fun n hn => h n (by simp [hn])]

theorem readZones_bytes (zs : List ZoneDef) (h : ∀ z ∈ zs, ZoneFits z) (rest : List Byte) :
    readZones zs.length (zs.flatMap zoneBytes ++ rest) = some (zs, rest) := by
  induction zs with
  | nil => rfl
  | cons z zs ih =>
    obtain ⟨h1, h2, h3⟩ := h z (by simp)
    simp only [List.flatMap_cons, zoneBytes, List.cons_append, List.append_assoc, List.length_cons, readZones,
      toNat_byteOf _ h1, toNat_byteOf _ h2]
    rw [if_pos (by simp), List.drop_left' (by simp), List.take_left' (by simp), ih fun q hq => h q (by simp [hq])]
    simp [map_toNat_byteOf _ h3]

/-- What the sections of an image that fits are read as: themselves, unless some direction has more than four conditions
(R182). -/
theorem readSections_bytes (d : StoredImage) (h : d.Fits) (r : RawImage) (hp : r.pointCount = d.points.length)
    (hz : r.zoneCount = d.zones.length) (hs : r.sections = d.sections) :
    readSections r = if ∀ l ∈ d.locals, l.closeConditions.length ≤ 4 ∧ l.openConditions.length ≤ 4 then
      some ⟨d.points, d.locals, d.zones⟩ else none := by
  obtain ⟨-, -, -, -, -, -, -, hl, -, h1, h2, h3⟩ := h
  simp only [readSections, hp, hz, hs, StoredImage.sections, readPoints_bytes _ h1, toNat_byteOf _ hl]
  rw [readLocals_bytes _ h2]
  have := readZones_bytes d.zones h3 []
  rw [List.append_nil] at this
  by_cases hc : ∀ l ∈ d.locals, l.closeConditions.length ≤ 4 ∧ l.openConditions.length ≤ 4
  · simp only [if_pos hc, this]
  · simp only [if_neg hc]

/-! ### Reading backwards -/

theorem readPoints_inv (n : Nat) (bs rest : List Byte) (ps : List RawPoint) (h : readPoints n bs = some (ps, rest)) :
    bs = ps.flatMap RawPoint.bytes ++ rest ∧ ps.length = n ∧ ∀ p ∈ ps, p.Fits := by
  induction n generalizing bs ps with
  | zero => simp [readPoints] at h; simp [h]
  | succ n ih =>
    match bs, h with
    | i1 :: i0 :: k :: o :: a :: b :: bs, h =>
      simp only [readPoints, Option.map_eq_some_iff, Prod.mk.injEq] at h
      obtain ⟨⟨qs, r⟩, hq, rfl, rfl⟩ := h
      obtain ⟨rfl, rfl, h3⟩ := ih bs qs hq
      have := dec16_lt i1 i0
      refine ⟨by simp [RawPoint.bytes], by simp, ?_⟩
      simp only [List.forall_mem_cons]
      exact ⟨⟨this, k.isLt, o.isLt, a.isLt, b.isLt⟩, h3⟩

theorem readConditions_inv (n : Nat) (bs rest : List Byte) (cs : List RawCondition)
    (h : readConditions n bs = some (cs, rest)) :
    bs = cs.flatMap RawCondition.bytes ++ rest ∧ cs.length = n ∧ ∀ c ∈ cs, c.point < 65536 := by
  induction n generalizing bs cs with
  | zero => simp [readConditions] at h; simp [h]
  | succ n ih =>
    match bs, h with
    | i1 :: i0 :: v :: bs, h =>
      simp only [readConditions, Option.map_eq_some_iff, Prod.mk.injEq] at h
      obtain ⟨⟨qs, r⟩, hq, rfl, rfl⟩ := h
      obtain ⟨rfl, rfl, h3⟩ := ih bs qs hq
      refine ⟨by simp [RawCondition.bytes], by simp, ?_⟩
      simp only [List.forall_mem_cons]
      exact ⟨dec16_lt i1 i0, h3⟩

theorem readLocal_inv (bs rest : List Byte) (l : RawLocal) (h : readLocal bs = some (l, rest)) :
    bs = l.bytes ++ rest ∧ l.Fits := by
  match bs, h with
  | i1 :: i0 :: inp :: coil :: t1 :: t0 :: v1 :: v0 :: c :: o :: bs, h =>
    simp only [readLocal] at h
    split at h
    · rename_i hc
      split at h
      · simp at h
      · rename_i cs bs1 hcs
        simp only [Option.map_eq_some_iff, Prod.mk.injEq] at h
        obtain ⟨⟨os, r⟩, hos, rfl, rfl⟩ := h
        obtain ⟨rfl, hl1, hf1⟩ := readConditions_inv _ _ _ _ hcs
        obtain ⟨rfl, hl2, hf2⟩ := readConditions_inv _ _ _ _ hos
        refine ⟨by simp [RawLocal.bytes, hl1, hl2], ?_⟩
        refine ⟨dec16_lt _ _, inp.isLt, coil.isLt, dec16_lt _ _, dec16_lt _ _, ?_, ?_, ?_⟩
        · show cs.length < 256; omega
        · show os.length < 256; omega
        · intro x hx
          rcases List.mem_append.1 hx with hx | hx
          · exact hf1 x hx
          · exact hf2 x hx
    · simp at h

theorem readLocals_inv (n : Nat) (bs rest : List Byte) (ls : List RawLocal) (h : readLocals n bs = some (ls, rest)) :
    bs = ls.flatMap RawLocal.bytes ++ rest ∧ ls.length = n ∧ ∀ l ∈ ls, l.Fits := by
  induction n generalizing bs ls with
  | zero => simp [readLocals] at h; simp [h]
  | succ n ih =>
    simp only [readLocals] at h
    split at h
    · simp at h
    · rename_i l bs1 hl
      simp only [Option.map_eq_some_iff, Prod.mk.injEq] at h
      obtain ⟨⟨qs, r⟩, hq, rfl, rfl⟩ := h
      obtain ⟨rfl, hf⟩ := readLocal_inv _ _ _ hl
      obtain ⟨rfl, rfl, h3⟩ := ih _ qs hq
      simp only [List.forall_mem_cons]
      exact ⟨by simp, by simp, hf, h3⟩

theorem map_byteOf_toNat (l : List Byte) : (l.map (·.toNat)).map byteOf = l := by
  induction l with
  | nil => rfl
  | cons a l ih => simp only [List.map_cons, ih, byteOf_toNat]

theorem readZones_inv (n : Nat) (bs rest : List Byte) (zs : List ZoneDef) (h : readZones n bs = some (zs, rest)) :
    bs = zs.flatMap zoneBytes ++ rest ∧ zs.length = n ∧ ∀ z ∈ zs, ZoneFits z := by
  induction n generalizing bs zs with
  | zero => simp [readZones] at h; simp [h]
  | succ n ih =>
    match bs, h with
    | z :: k :: bs, h =>
      simp only [readZones] at h
      split at h
      · rename_i hk
        simp only [Option.map_eq_some_iff, Prod.mk.injEq] at h
        obtain ⟨⟨qs, r⟩, hq, rfl, rfl⟩ := h
        obtain ⟨h1, rfl, h3⟩ := ih _ qs hq
        have hm : min k.toNat bs.length = k.toNat := by omega
        refine ⟨?_, by simp, ?_⟩
        · simp only [List.flatMap_cons, zoneBytes, List.cons_append, byteOf_toNat, List.length_map, List.length_take, hm,
            map_byteOf_toNat, List.append_assoc, ← h1, List.take_append_drop]
        · simp only [List.forall_mem_cons]
          refine ⟨⟨z.isLt, ?_, ?_⟩, h3⟩
          · have := k.isLt; simp; omega
          · intro n hn
            obtain ⟨b, -, rfl⟩ := List.mem_map.1 hn
            exact b.isLt
      · simp at h

/-- Sections that read are those of what they read as (R182). -/
theorem readSections_inv (r : RawImage) (x : RawSections) (h : readSections r = some x) :
    r.sections = x.points.flatMap RawPoint.bytes ++
      byteOf x.locals.length :: (x.locals.flatMap RawLocal.bytes ++ x.zones.flatMap zoneBytes) ∧
    x.points.length = r.pointCount ∧ x.zones.length = r.zoneCount ∧ x.locals.length < 256 ∧
    (∀ p ∈ x.points, p.Fits) ∧ (∀ l ∈ x.locals, l.Fits) ∧ ∀ z ∈ x.zones, ZoneFits z := by
  unfold readSections at h
  split at h
  · rename_i ps lc bs1 hps
    split at h
    · rename_i ls bs2 hls
      split at h
      · rename_i zs hzs
        obtain rfl := Option.some.inj h
        obtain ⟨a1, a2, a3⟩ := readPoints_inv _ _ _ _ hps
        obtain ⟨b1, b2, b3⟩ := readLocals_inv _ _ _ _ hls
        obtain ⟨c1, c2, c3⟩ := readZones_inv _ _ _ _ hzs
        subst b1 c1
        have := lc.isLt
        exact ⟨by simp [a1, b2], a2, c2, by simp only; omega, a3, b3, c3⟩
      · simp at h
    · simp at h
  · simp at h

/-! ### The image as a whole -/

/-- The header and the sections that an image gives. -/
def StoredImage.raw (d : StoredImage) : RawImage :=
  { unit := d.unit, revision := d.revision, highNode := d.highNode, pointCount := d.points.length,
    zoneCount := d.zones.length, recovery := d.recovery, times := d.times, sections := d.sections }

theorem length_bytes (d : StoredImage) (h : d.times.length = 9) : d.bytes.length = 30 + d.sections.length := by
  obtain ⟨u, rev, hn, rec, ts, ps, ls, zs⟩ := d
  simp only at h
  match ts, h with
  | [_, _, _, _, _, _, _, _, _], _ =>
    simp [StoredImage.bytes, sealCrc, -List.length_flatMap]; omega

/-- The bytes of an image that fits are read as its header and its sections. -/
theorem readHeader_bytes (d : StoredImage) (h : d.Fits) : readHeader d.bytes = d.raw := by
  obtain ⟨h1, h2, h3, h4, h5, h6, h7, h8, h9, h10⟩ := h
  obtain ⟨u, rev, hn, rec, ts, ps, ls, zs⟩ := d
  simp only at h1 h2 h3 h4 h5 h6 h7 h8 h9
  match ts, h5 with
  | [t0, t1, t2, t3, t4, t5, t6, t7, t8], _ =>
    simp only [List.forall_mem_cons] at h6
    obtain ⟨k0, k1, k2, k3, k4, k5, k6, k7, k8, -⟩ := h6
    have hs : ∀ c : List Byte, c.length = 2 → ∀ l : List Byte, (l ++ c).take ((l ++ c).length - 2) = l := by
      intro c hc l; simp [hc]
    simp only [readHeader, StoredImage.raw, RawImage.mk.injEq]
    refine ⟨?_, ?_, ?_, ?_, ?_, ?_, ?_, ?_⟩
    all_goals first
      | (rw [StoredImage.bytes, sealCrc, hs _ (by simp [enc16])]; simp [enc16])
      | simp [StoredImage.bytes, sealCrc, enc16, numAt, wordAt, *]

/-- Loading of a store that holds an image goes to the validity checks (R11, R12). -/
theorem loadStore_stored (d : StoredImage) (store : List Host.Cell) (h : StoredIn d store) :
    loadStore store = checkImage d.bytes := by
  obtain ⟨hf, hl, hb⟩ := h
  have h5 := length_bytes d hf.2.2.2.2.1
  have e : ∀ i, i < d.bytes.length → storeRead store i = d.bytes.getD i 0 := by
    intro i hi
    conv_rhs => rw [← hb]
    simp [hi]
  have hn : statedLength store = d.bytes.length := by
    rw [statedLength, e 0 (by omega), e 1 (by omega), h5]
    simp only [StoredImage.bytes, sealCrc, enc16, List.cons_append, List.nil_append, List.append_assoc,
      List.getD_cons_zero, List.getD_cons_succ]
    rw [dec16_enc16 _ (by omega)]
  have hi : storeBytes store 0 d.bytes.length = d.bytes := by
    rw [storeBytes_eq]; simpa using hb
  have hg : crcGood d.bytes = true := crcGood_sealCrc _
  simp only [loadStore, hn, hi, hg, Config.storeBytes]
  rw [if_neg (by omega)]; rfl

/-! ### The validity checks (R12) -/

/-- The records of the sections of an image. -/
abbrev StoredImage.records (d : StoredImage) : RawSections := ⟨d.points, d.locals, d.zones⟩

theorem within_iff (lo hi x : Nat) : within lo hi x = true ↔ lo ≤ x ∧ x ≤ hi := by simp [within]

theorem statedWithin_iff (lo hi x : Nat) : statedWithin lo hi x = true ↔ Allowed lo hi x := by
  simp [statedWithin, Allowed, within]

/-- The kinds by their codes (section 12.5). -/
theorem kindOfCode_iff (n : Nat) (k : PointKind) :
    kindOfCode n = some k ↔ 1 ≤ n ∧ [.breaker, .disconnector, .earthing, .voltage, .binary][n - 1]? = some k := by
  rcases n with _ | _ | _ | _ | _ | _ | n <;> simp [kindOfCode]

theorem isSwitch_iff (p : RawPoint) : p.isSwitch = true ↔ 1 ≤ p.kind ∧ p.kind ≤ 3 := by
  obtain ⟨_, k, _, _, _⟩ := p
  rcases k with _ | _ | _ | _ | _ | _ | k <;> simp [RawPoint.isSwitch, RawPoint.isKind, kindOfCode]

theorem isVoltage_iff (p : RawPoint) : p.isKind .voltage = true ↔ p.kind = 4 := by
  obtain ⟨_, k, _, _, _⟩ := p
  rcases k with _ | _ | _ | _ | _ | _ | k <;> simp [RawPoint.isKind, kindOfCode]

theorem isBinary_iff (p : RawPoint) : p.isKind .binary = true ↔ p.kind = 5 := by
  obtain ⟨_, k, _, _, _⟩ := p
  rcases k with _ | _ | _ | _ | _ | _ | k <;> simp [RawPoint.isKind, kindOfCode]

theorem isSwitch_eq : RawPoint.isSwitch = fun p => decide (1 ≤ p.kind ∧ p.kind ≤ 3) := by
  funext p; rw [Bool.eq_iff_iff, isSwitch_iff, decide_eq_true_eq]

theorem isVoltage_eq : (fun p : RawPoint => p.isKind .voltage) = fun p => decide (p.kind = 4) := by
  funext p; rw [Bool.eq_iff_iff, isVoltage_iff, decide_eq_true_eq]

theorem isBinary_eq : (fun p : RawPoint => p.isKind .binary) = fun p => decide (p.kind = 5) := by
  funext p; rw [Bool.eq_iff_iff, isBinary_iff, decide_eq_true_eq]

/-- Check 3, the counts in the header and those of the sections together. -/
theorem passes3_iff (d : StoredImage) : d.Passes 3 ↔
    (within 1 127 d.highNode && decide (d.points.length ≤ 256) && decide (d.zones.length ≤ 24)) = true ∧
    (∀ l ∈ d.locals, l.closeConditions.length ≤ 4 ∧ l.openConditions.length ≤ 4) ∧
    countsOk d.unit d.records = true := by
  have e2 := congrFun isVoltage_eq
  have e3 := congrFun isBinary_eq
  simp only [StoredImage.Passes, countsOk, List.filter_filter, Bool.and_eq_true, decide_eq_true_eq]
  simp only [isSwitch_eq, e2, e3, within_iff, beq_eq_decide]
  tauto

/-- The kind that check 4 takes for a record is that of the first point of its id. -/
theorem kindOf_eq (d : StoredImage) (id : Nat) : d.records.kindOf id = (d.kindCode id).bind kindOfCode := by
  simp only [RawSections.kindOf, StoredImage.kindCode]
  cases d.points.find? fun p => p.id == id <;> rfl

theorem localSettingOk_iff (d : StoredImage) (l : RawLocal) :
    localSettingOk d.records l = true ↔ ∀ k, d.kindCode l.point = some k → l.SettingsAllowed k := by
  unfold localSettingOk
  rw [kindOf_eq]
  cases d.kindCode l.point with
  | none => simp
  | some k =>
    simp only [Option.bind_some, Option.some.injEq, forall_eq', RawLocal.SettingsAllowed, SwitchCode]
    rcases k with _ | _ | _ | _ | _ | _ | k <;>
      simp [kindOfCode, within_iff, statedWithin_iff, RawLocal.unswitched] <;> tauto

theorem timesOk_iff (d : StoredImage) : timesOk d.raw = true ↔
    List.Forall₂ (fun (r : Nat × Nat) x => Allowed r.1 r.2 x)
      [(5, 100), (2, 50), (500, 10000), (10, 1000), (20, 500), (200, 2000), (1, 60), (5, 120), (0, 5000)] d.times ∧
    (d.recovery = 1 ∨ d.recovery = 2 ∨ d.recovery = 0xFF) := by
  have hr : (within 1 2 d.recovery || d.recovery == 0xFF) = true ↔ d.recovery = 1 ∨ d.recovery = 2 ∨ d.recovery = 0xFF := by
    simp only [Bool.or_eq_true, within_iff, beq_iff_eq]; omega
  rw [← hr]
  simp only [timesOk, StoredImage.raw]
  split
  · rename_i h
    simp only [h, Bool.and_eq_true, statedWithin_iff, List.forall₂_cons, List.forall₂_nil_left_iff, and_true]
    tauto
  · rename_i h
    simp only [Bool.false_eq_true, false_iff, not_and]
    intro hf
    exfalso
    have := hf.length_eq
    match hd : d.times, this with
    | [a, b, c, e, f, g, i, j, k], _ => exact h _ _ _ _ _ _ _ _ _ hd

theorem noRepeats_iff (l : List Nat) : noRepeats l = true ↔ l.Nodup := by simp only [noRepeats, decide_eq_true_eq]

theorem noRepeats_inputsOf (d : StoredImage) (allow : PointKind → Bool) (f : RawLocal → Nat) :
    noRepeats ((inputsOf d.records allow).map f) = true ↔
      d.locals.Pairwise fun l m => ∀ j k, d.records.kindOf l.point = some j → d.records.kindOf m.point = some k →
        allow j = true → allow k = true → f l ≠ f m := by
  simp only [noRepeats_iff, inputsOf, List.Nodup, List.pairwise_map, List.pairwise_filter]
  apply List.Pairwise.iff
  intro a b
  constructor
  · intro h j k hj hk h1 h2
    exact h (by simp [hj, h1]) (by simp [hk, h2])
  · intro h h1 h2
    split at h1
    · split at h2
      · exact h _ _ ‹_› ‹_› h1 h2
      · simp at h2
    · simp at h1

/-- Check 4. -/
theorem passes4_iff (d : StoredImage) : d.Passes 4 ↔ check4 d.raw d.records = true := by
  simp only [check4, Bool.and_eq_true, noRepeats_inputsOf, timesOk_iff, StoredImage.Passes]
  have hl : d.records.locals.all (localSettingOk d.records) = true ↔
      ∀ l ∈ d.locals, ∀ k, d.kindCode l.point = some k → l.SettingsAllowed k := by
    simp [List.all_eq_true, ← localSettingOk_iff]
  have hp : d.records.points.all (fun p => within 1 5 p.kind && within 1 48 p.owner) = true ↔
      ∀ p ∈ d.points, 1 ≤ p.kind ∧ p.kind ≤ 5 ∧ 1 ≤ p.owner ∧ p.owner ≤ 48 := by
    simp [List.all_eq_true, within_iff, and_assoc]
  have hi : d.locals.Pairwise d.InputsApart ↔
      ((d.locals.Pairwise fun l m => ∀ j k, d.records.kindOf l.point = some j → d.records.kindOf m.point = some k →
        j.isSwitch = true → k.isSwitch = true → l.input ≠ m.input) ∧
      (d.locals.Pairwise fun l m => ∀ j k, d.records.kindOf l.point = some j → d.records.kindOf m.point = some k →
        j.isSwitch = true → k.isSwitch = true → l.coil ≠ m.coil)) ∧
      (d.locals.Pairwise fun l m => ∀ j k, d.records.kindOf l.point = some j → d.records.kindOf m.point = some k →
        (j == .voltage) = true → (k == .voltage) = true → l.input ≠ m.input) ∧
      (d.locals.Pairwise fun l m => ∀ j k, d.records.kindOf l.point = some j → d.records.kindOf m.point = some k →
        (j == .binary) = true → (k == .binary) = true → l.input ≠ m.input) := by
    simp only [← List.pairwise_and_iff]
    apply List.Pairwise.iff
    intro l m
    simp only [StoredImage.InputsApart, kindOf_eq]
    cases d.kindCode l.point with
    | none => simp
    | some a =>
      cases d.kindCode m.point with
      | none => simp
      | some b =>
        simp only [Option.bind_some, Option.some.injEq, SwitchCode]
        rcases a with _ | _ | _ | _ | _ | _ | a <;> rcases b with _ | _ | _ | _ | _ | _ | b <;>
          simp [kindOfCode, PointKind.isSwitch]
  rw [hl, hp, hi]
  tauto

/-- Check 5. -/
theorem passes5_iff (d : StoredImage) : d.Passes 5 ↔ check5 d.records = true := by
  simp [check5, noRepeats_iff, StoredImage.Passes, within_iff]

/-- Check 6. -/
theorem passes6_iff (d : StoredImage) : d.Passes 6 ↔ check6 d.unit d.records = true := by
  simp only [check6, noRepeats_iff, StoredImage.Passes, Bool.and_eq_true,
    List.all_eq_true, List.any_eq_true, beq_iff_eq, Bool.or_eq_true, bne_iff_ne, ne_eq]
  constructor
  · rintro ⟨h1, h2, h3⟩
    exact ⟨⟨h2, h3⟩, fun p hp => by by_cases ho : p.owner = d.unit <;> simp [ho]; exact h1 p hp ho⟩
  · rintro ⟨⟨h2, h3⟩, h1⟩
    exact ⟨fun p hp ho => (h1 p hp).resolve_left fun h => h ho, h2, h3⟩

/-- Check 7. -/
theorem passes7_iff (d : StoredImage) : d.Passes 7 ↔ check7 d.raw d.records = true := by
  have hn : ∀ p : RawPoint, nodesOk d.highNode p = true ↔
      (p.kind = 1 ∨ p.kind = 2 → 1 ≤ p.nodeA ∧ p.nodeA ≤ d.highNode ∧ 1 ≤ p.nodeB ∧ p.nodeB ≤ d.highNode ∧
        p.nodeA ≠ p.nodeB) ∧
      (p.kind = 3 → 1 ≤ p.nodeA ∧ p.nodeA ≤ d.highNode ∧ p.nodeB = 0) ∧
      (p.kind = 4 → 1 ≤ p.nodeA ∧ p.nodeA ≤ d.highNode) := by
    intro p
    obtain ⟨_, k, _, a, b⟩ := p
    rcases k with _ | _ | _ | _ | _ | _ | k <;> simp [nodesOk, kindOfCode, within_iff] <;> tauto
  have e2 := congrFun isVoltage_eq
  simp only [check7, noRepeats_iff, StoredImage.Passes, StoredImage.raw, Bool.and_eq_true, List.all_eq_true, hn, e2]

/-- Check 8. -/
theorem passes8_iff (d : StoredImage) : d.Passes 8 ↔ check8 d.raw d.records = true := by
  simp only [check8, noRepeats_iff, StoredImage.Passes, StoredImage.raw, Bool.and_eq_true, List.all_eq_true, within_iff]
  constructor <;> rintro ⟨h, h'⟩ <;> refine ⟨fun z hz => ?_, h'⟩ <;> have := h z hz <;> tauto

/-- The values by their codes (section 12.5). -/
theorem valueOfCode_eq : ∀ b : Byte, valueOfCode b =
    if b = 0 then none
    else [.opened, .closed, .travel, .bad, .absent, .present, .low, .high][b.toNat - 1]? := by
  decide +kernel

/-- The values that a kind shows as settled, by their codes (R7). -/
theorem settled_code : ∀ b : Byte, ∀ v, valueOfCode b = some v →
    (PointKind.breaker.settled v = true ↔ b = 1 ∨ b = 2) ∧ (PointKind.disconnector.settled v = true ↔ b = 1 ∨ b = 2) ∧
    (PointKind.earthing.settled v = true ↔ b = 1 ∨ b = 2) ∧ (PointKind.voltage.settled v = true ↔ b = 5 ∨ b = 6) ∧
    (PointKind.binary.settled v = true ↔ b = 7 ∨ b = 8) := by
  intro b v h
  unfold valueOfCode at h
  split_ifs at h <;> simp only [Option.some.injEq] at h <;> subst_vars <;> decide

theorem code_of_value (b : Byte) (h : b = 1 ∨ b = 2 ∨ b = 5 ∨ b = 6 ∨ b = 7 ∨ b = 8) : ∃ v, valueOfCode b = some v := by
  rcases h with rfl | rfl | rfl | rfl | rfl | rfl <;> exact ⟨_, rfl⟩

/-- Of the points of an image whose ids are distinct, the first of an id is the only one. -/
theorem kindCode_eq_some (d : StoredImage) (h5 : d.Passes 5) (id k : Nat) :
    d.kindCode id = some k ↔ ∃ p ∈ d.points, p.id = id ∧ p.kind = k := by
  simp only [StoredImage.kindCode, Option.map_eq_some_iff]
  constructor
  · rintro ⟨p, hp, rfl⟩
    exact ⟨p, List.mem_of_find?_eq_some hp, by simpa using List.find?_some hp, rfl⟩
  · rintro ⟨p, hp, rfl, rfl⟩
    cases hf : d.points.find? fun q => q.id == p.id with
    | none => rw [List.find?_eq_none] at hf; have := hf p hp; simp at this
    | some q =>
      have h1 : q.id = p.id := by simpa using List.find?_some hf
      have := List.inj_on_of_nodup_map h5.2 (List.mem_of_find?_eq_some hf) hp h1
      exact ⟨q, rfl, by rw [this]⟩

theorem conditionOk_iff (d : StoredImage) (h5 : d.Passes 5) (c : RawCondition) : conditionOk d.records c = true ↔
    ∃ p ∈ d.points, p.id = c.point ∧
      (SwitchCode p.kind ∧ (c.value = 1 ∨ c.value = 2) ∨ p.kind = 4 ∧ (c.value = 5 ∨ c.value = 6) ∨
        p.kind = 5 ∧ (c.value = 7 ∨ c.value = 8)) := by
  have hk := kindCode_eq_some d h5 c.point
  unfold conditionOk
  rw [kindOf_eq]
  constructor
  · intro h
    split at h
    · rename_i k v hkk hv
      obtain ⟨code, hc, hcode⟩ := Option.bind_eq_some_iff.1 hkk
      obtain ⟨p, hp, h1, rfl⟩ := (hk code).1 hc
      obtain ⟨s1, s2, s3, s4, s5⟩ := settled_code _ _ hv
      refine ⟨p, hp, h1, ?_⟩
      simp only [SwitchCode]
      unfold kindOfCode at hcode
      split at hcode <;> simp only [Option.some.injEq, reduceCtorEq] at hcode <;> subst hcode <;> simp_all
    · simp at h
  · rintro ⟨p, hp, h1, h⟩
    have hc := (hk p.kind).2 ⟨p, hp, h1, rfl⟩
    have hv : ∃ v, valueOfCode c.value = some v := code_of_value _ (by tauto)
    obtain ⟨v, hv⟩ := hv
    obtain ⟨s1, s2, s3, s4, s5⟩ := settled_code _ _ hv
    simp only [hc, Option.bind_some, hv, SwitchCode] at h ⊢
    clear hk hc
    obtain ⟨_, k, _, _, _⟩ := p
    simp only at h
    rcases k with _ | _ | _ | _ | _ | _ | k <;> simp [kindOfCode] at h ⊢ <;> simp_all
    omega

/-- Check 9, where check 5 has passed. -/
theorem passes9_iff (d : StoredImage) (h5 : d.Passes 5) : d.Passes 9 ↔ check9 d.records = true := by
  simp only [check9, List.all_eq_true, Bool.and_eq_true, conditionOk_iff d h5, StoredImage.Passes, List.mem_append]
  constructor
  · exact fun h l hl => ⟨fun c hc => h l hl c (.inl hc), fun c hc => h l hl c (.inr hc)⟩
  · rintro h l hl c (hc | hc)
    · exact (h l hl).1 c hc
    · exact (h l hl).2 c hc

theorem passes10_iff (d : StoredImage) : d.Passes 10 ↔ check10 (paramsOf d.raw) = true := by
  simp only [check10, decide_eq_true_eq, StoredImage.Passes, mul_comm]
  rfl

theorem passes11_iff (d : StoredImage) : d.Passes 11 ↔ check11 (paramsOf d.raw) = true := by
  simp only [check11, decide_eq_true_eq]
  rfl

open Classical in
/-- The validity checks of an image that fits, in order (R12). -/
theorem checkImage_bytes (d : StoredImage) (h : d.Fits) : checkImage d.bytes =
    if ¬ d.Passes 1 then .failed (.configInvalid 1) else if ¬ d.Passes 2 then .failed (.configInvalid 2)
    else if ¬ d.Passes 3 then .failed (.configInvalid 3) else if ¬ d.Passes 4 then .failed (.configInvalid 4)
    else if ¬ d.Passes 5 then .failed (.configInvalid 5) else if ¬ d.Passes 6 then .failed (.configInvalid 6)
    else if ¬ d.Passes 7 then .failed (.configInvalid 7) else if ¬ d.Passes 8 then .failed (.configInvalid 8)
    else if ¬ d.Passes 9 then .failed (.configInvalid 9) else if ¬ d.Passes 10 then .failed (.configInvalid 10)
    else if ¬ d.Passes 11 then .failed (.configInvalid 11) else .loaded (modelOf d.raw d.records) := by
  have h1 : d.Passes 1 ↔ within 1 48 d.unit = true := (within_iff 1 48 d.unit).symm
  have h3 := passes3_iff d
  rw [checkImage, readHeader_bytes d h]
  simp only [readSections_bytes d h d.raw rfl rfl rfl]
  by_cases c1 : d.Passes 1
  · rw [if_neg (by simpa [StoredImage.raw] using h1.1 c1), if_neg (not_not.2 c1)]
    by_cases c2 : d.Passes 2
    · rw [if_neg (show ¬ d.raw.revision = 0 from c2), if_neg (not_not.2 c2)]
      by_cases c3 : d.Passes 3
      · obtain ⟨k1, k2, k3⟩ := h3.1 c3
        have k1' : (within 1 127 d.raw.highNode && decide (d.raw.pointCount ≤ 256) && decide (d.raw.zoneCount ≤ 24)) =
          true := k1
        rw [k1', if_neg (by simp), if_neg (not_not.2 c3), if_pos k2]
        have hb : ∀ (b : Bool) (P : Prop), (P ↔ b = true) → ((!b) = true ↔ ¬ P) := by
          rintro (_ | _) P hP <;> simp [hP]
        have k3' : ¬ (!countsOk d.raw.unit d.records) = true := by
          rw [show d.raw.unit = d.unit from rfl, k3]; simp
        simp only [checkSections]
        rw [if_neg k3']
        simp only [show d.raw.unit = d.unit from rfl, hb _ _ (passes4_iff d), hb _ _ (passes5_iff d),
          hb _ _ (passes6_iff d), hb _ _ (passes7_iff d), hb _ _ (passes8_iff d), hb _ _ (passes10_iff d),
          hb _ _ (passes11_iff d)]
        by_cases c5 : d.Passes 5
        · simp only [hb _ _ (passes9_iff d c5)]
        · simp only [c5, not_false_eq_true, if_true]
      · rw [if_pos c3]
        by_cases k1 : (within 1 127 d.raw.highNode && decide (d.raw.pointCount ≤ 256) && decide (d.raw.zoneCount ≤ 24)) =
          true
        · rw [k1, if_neg (by simp)]
          by_cases k2 : ∀ l ∈ d.locals, l.closeConditions.length ≤ 4 ∧ l.openConditions.length ≤ 4
          · have k3 : countsOk d.unit d.records = false := by
              by_contra hc; exact c3 (h3.2 ⟨k1, k2, by simpa using hc⟩)
            rw [if_pos k2]
            simp only [checkSections]
            rw [if_pos]
            simpa [StoredImage.raw] using k3
          · rw [if_neg k2]
        · rw [Bool.eq_false_of_not_eq_true k1]; rfl
    · rw [if_pos (show d.raw.revision = 0 from not_not.1 c2), if_pos c2]
  · rw [if_pos (by simpa [StoredImage.raw] using mt h1.2 c1), if_pos c1]

/-- Every image that loads as far as its validity checks and reads whole is the image its records spell (R182). -/
theorem stored_of_readSections (image : List Byte) (x : RawSections) (h2 : 30 ≤ image.length) (h3 : image.length ≤ 16384)
    (hl : dec16 (image.getD 0 0) (image.getD 1 0) = image.length) (hc : crcGood image = true)
    (hx : readSections (readHeader image) = some x) : ∃ d : StoredImage, d.Fits ∧ d.bytes = image := by
  obtain ⟨s1, s2, s3, s4, s5, s6, s7⟩ := readSections_inv _ _ hx
  have hi := sealCrc_take image hc
  let r := readHeader image
  let d : StoredImage := ⟨r.unit, r.revision, r.highNode, r.recovery, r.times, x.points, x.locals, x.zones⟩
  have hd : d.sections = (image.take (image.length - 2)).drop 28 := s1.symm
  have hn : 30 + d.sections.length = image.length := by
    rw [hd]; simp; omega
  have ht : image.take (image.length - 2) = (List.range 28).map (fun i => image.getD i 0) ++ d.sections := by
    conv_lhs => rw [← List.take_append_drop 28 (image.take (image.length - 2)), List.take_take,
      show min 28 (image.length - 2) = 28 by omega]
    rw [hd]
    congr 1
    apply List.ext_getElem
    · simp; omega
    · intro i h1 h2
      simp at h1 ⊢
      rw [List.getElem?_eq_getElem (by omega)]; rfl
  refine ⟨d, ⟨BitVec.isLt _, dec16_lt _ _, BitVec.isLt _, BitVec.isLt _, rfl, ?_, ?_, s4, ?_, s5, s6, s7⟩, ?_⟩
  · intro t ht
    simp only [d, r, readHeader, List.mem_cons, List.not_mem_nil, or_false] at ht
    rcases ht with rfl | rfl | rfl | rfl | rfl | rfl | rfl | rfl | rfl <;> exact dec16_lt _ _
  · rw [show d.points = x.points from rfl, s2]; exact dec16_lt _ _
  · rw [show d.zones = x.zones from rfl, s3]; exact BitVec.isLt _
  · rw [← hi, ht, StoredImage.bytes, hn, ← hl]
    congr 1
    simp only [d, s2, s3, readHeader, r, numAt, wordAt, enc16_dec16, byteOf_toNat, List.flatMap_cons, List.flatMap_nil]
    rfl

/-! ### What an image that loads has passed, and the model it gives -/

theorem mem_insertBy {α : Type} (key : α → Nat) (a b : α) (l : List α) : b ∈ insertBy key a l ↔ b = a ∨ b ∈ l := by
  induction l with
  | nil => simp [insertBy]
  | cons c l ih => simp only [insertBy]; split <;> simp [ih]; tauto

@[simp] theorem mem_sortBy {α : Type} (key : α → Nat) (b : α) (l : List α) : b ∈ sortBy key l ↔ b ∈ l := by
  induction l with
  | nil => simp [sortBy]
  | cons c l ih => simp [sortBy, mem_insertBy, ih]

theorem insertBy_perm {α : Type} (key : α → Nat) (a : α) (l : List α) : (insertBy key a l).Perm (a :: l) := by
  induction l with
  | nil => exact List.Perm.refl _
  | cons b l ih =>
    simp only [insertBy]
    split
    · exact List.Perm.refl _
    · exact (ih.cons b).trans (List.Perm.swap a b l)

theorem sortBy_perm {α : Type} (key : α → Nat) (l : List α) : (sortBy key l).Perm l := by
  induction l with
  | nil => exact List.Perm.refl _
  | cons b l ih => exact (insertBy_perm key b _).trans (ih.cons b)

/-- An image that loads has passed every check, and its model is the one its sections give (R12). -/
theorem loadStore_loaded (store : List Host.Cell) (m : YardModel) (h : loadStore store = .loaded m) :
    ∃ r x, m = modelOf r x ∧ within 1 48 r.unit = true ∧ r.revision ≠ 0 ∧ within 1 127 r.highNode = true ∧
      r.pointCount ≤ 256 ∧ r.zoneCount ≤ 24 ∧ readSections r = some x ∧ countsOk r.unit x = true ∧ check4 r x = true ∧
      check5 x = true ∧ check6 r.unit x = true ∧ check7 r x = true ∧ check8 r x = true ∧ check9 x = true ∧
      check10 (paramsOf r) = true ∧ check11 (paramsOf r) = true := by
  unfold loadStore at h
  extract_lets n image at h
  split at h
  · simp at h
  · split at h
    · unfold checkImage at h
      extract_lets r at h
      split at h
      · simp at h
      · split at h
        · simp at h
        · split at h
          · simp at h
          · rename_i h1 h2 h3
            simp only [Bool.not_eq_true', Bool.and_eq_false_iff, decide_eq_false_iff_not, not_or, Bool.not_eq_false,
              Decidable.not_not] at h1 h3
            split at h
            · simp at h
            · rename_i x hx
              unfold checkSections at h
              repeat' split at h
              all_goals simp at h
              refine ⟨r, x, h.symm, h1, h2, h3.1.1, h3.1.2, h3.2, hx, ?_⟩
              simp_all
    · simp at h

/-- The model of an image that passes its checks is the one that Safety.lean describes. -/
theorem gives_modelOf (d : StoredImage) (h : ∀ k, 1 ≤ k → k ≤ 11 → d.Passes k) : d.Gives (modelOf d.raw d.records) := by
  have h4 := h 4 (by omega) (by omega)
  have h5 := h 5 (by omega) (by omega)
  have h9 := h 9 (by omega) (by omega)
  have hv : ∀ l ∈ d.locals, ∀ c ∈ l.closeConditions ++ l.openConditions, SpelledBy (conditionOf c) c := by
    intro l hl c hc
    obtain ⟨p, -, -, hp⟩ := h9 l hl c hc
    obtain ⟨v, hv⟩ := code_of_value c.value (by tauto)
    refine ⟨rfl, ?_⟩
    have he := valueOfCode_eq c.value
    rw [hv] at he
    split at he
    · simp at he
    · simp only [conditionOf, hv, Option.getD_some]; exact he.symm
  have hf : ∀ cs : List RawCondition, (∀ c ∈ cs, SpelledBy (conditionOf c) c) →
      List.Forall₂ SpelledBy (cs.map conditionOf) cs := by
    intro cs hc
    rw [List.forall₂_map_left_iff, List.forall₂_same]
    exact hc
  refine ⟨rfl, rfl, rfl, sortBy_perm _ _, ?_, ?_, ?_, ?_, rfl⟩
  · simp [modelOf, (sortBy_perm _ _).length_eq]
  · simp [modelOf, (sortBy_perm _ _).length_eq]
  · intro r hr
    refine ⟨pointOf r, ?_, rfl, rfl, rfl, rfl, ?_⟩
    · simp only [modelOf, mem_sortBy]; exact List.mem_map_of_mem hr
    · obtain ⟨k1, k2, -⟩ := h4.1 r hr
      obtain ⟨_, k, _, _, _⟩ := r
      simp only at k1 k2
      rcases k with _ | _ | _ | _ | _ | _ | k <;> simp [pointOf, kindOfCode] at k1 k2 ⊢
      omega
  · intro r hr
    refine ⟨localOf d.records r, ?_, rfl, rfl, rfl, ?_, hf _ fun c hc => hv r hr c (List.mem_append_left _ hc),
      hf _ fun c hc => hv r hr c (List.mem_append_right _ hc)⟩
    · simp only [modelOf, mem_sortBy]; exact List.mem_map_of_mem hr
    · intro k hk hs
      obtain ⟨k1, k2⟩ := hs
      simp only [localOf, kindOf_eq, hk, Option.bind_some]
      rcases k with _ | _ | _ | _ | k
      · omega
      · exact ⟨rfl, rfl⟩
      · exact ⟨rfl, rfl⟩
      · exact ⟨rfl, rfl⟩
      · omega

end Sys2Proof.Machine
end

