-- ==== Sys2Proof/Laws/Records.lean ====
section
/-! SUPPORT. What the bytes of request records are read as (R181, section 12.3). -/
namespace Sys2Proof.Machine

/-- A record that is well made is read as its type and its fields say (R181). -/
theorem parseRecord_recordBytes (type : Nat) (tag : Byte) (fields : List Byte) (h1 : type < 256) (h2 : fields.length ≤ 65529) :
    parseRecord (recordBytes type tag fields) =
      if knownTypes.contains type then (parseFields type fields).map fun r => ⟨tag, r⟩ else some ⟨tag, .unknown type⟩ := by
  have hg := crcGood_sealCrc (enc16 (fields.length + 6) ++ [byteOf type, tag] ++ fields)
  have hl : (sealCrc (enc16 (fields.length + 6) ++ [byteOf type, tag] ++ fields)).length = fields.length + 6 := by
    simp [sealCrc]; omega
  unfold recordBytes
  generalize hb : sealCrc (enc16 (fields.length + 6) ++ [byteOf type, tag] ++ fields) = bs at hg hl ⊢
  have hb' : bs = byteOf ((fields.length + 6) / 256) :: byteOf (fields.length + 6) :: byteOf type :: tag ::
      (fields ++ enc16 (crc16 (enc16 (fields.length + 6) ++ [byteOf type, tag] ++ fields)).toNat) := by
    rw [← hb]; simp [sealCrc, enc16]
  rw [hb'] at hg hl ⊢
  simp only [parseRecord, dec16_enc16 _ (show fields.length + 6 < 65536 by omega), hl, hg, toNat_byteOf _ h1]
  simp

/-- A PROGRAM's steps are read back from their bytes. -/
theorem parseSteps_bytes (l : List StepField) (h : l.all StepField.wellFormed = true) :
    parseSteps (l.flatMap fun f => enc16 f.point ++ [byteOf f.target]) = l := by
  induction l with
  | nil => rfl
  | cons f l ih =>
    simp only [List.all_cons, Bool.and_eq_true, StepField.wellFormed, fits16, fits8, decide_eq_true_eq] at h
    simp [enc16, parseSteps, h.1.1, h.1.2]; exact ih h.2

/-- A PROGRAM's step takes three bytes. -/
theorem length_steps (l : List StepField) : (l.flatMap fun f => enc16 f.point ++ [byteOf f.target]).length = 3 * l.length := by
  induction l with
  | nil => rfl
  | cons f l ih => simp only [List.flatMap_cons, List.length_append, ih]; simp; omega

/-- The fields of a request that fits its record are read back (R181). -/
theorem parseFields_requestFields (tag : Byte) (r : Request) (h : (commandOf tag r).wellFormed = true)
    (hu : ∀ type, r ≠ .unknown type) : parseFields (requestTypeCode r) (requestFields r) = some r := by
  cases r with
  | writeConfig offset data =>
    simp only [commandOf, Instr.wellFormed, Bool.and_eq_true, fits16, decide_eq_true_eq, beq_iff_eq] at h
    show (if data.length = Config.blockBytes then some (Request.writeConfig (dec16 _ _) data) else none) = _
    rw [if_pos h.2, dec16_enc16 _ h.1]
  | program urgency steps =>
    simp only [commandOf, Instr.wellFormed, Bool.and_eq_true, fits8, decide_eq_true_eq] at h
    show (if (steps.flatMap fun f => enc16 f.point ++ [byteOf f.target]).length = 3 * (byteOf steps.length).toNat then
      some (Request.program (byteOf urgency).toNat
        (parseSteps (steps.flatMap fun f => enc16 f.point ++ [byteOf f.target]))) else none) = _
    rw [toNat_byteOf _ h.1.1, toNat_byteOf _ h.1.2, if_pos (length_steps steps), parseSteps_bytes _ h.2]
  | operate urgency point target =>
    simp only [commandOf, Instr.wellFormed, Bool.and_eq_true, fits8, fits16, decide_eq_true_eq] at h
    show some (Request.operate (byteOf urgency).toNat (dec16 _ _) (byteOf target).toNat) = _
    rw [toNat_byteOf _ h.1.1, dec16_enc16 _ h.1.2, toNat_byteOf _ h.2]
  | check point target =>
    simp only [commandOf, Instr.wellFormed, Bool.and_eq_true, fits8, fits16, decide_eq_true_eq] at h
    show some (Request.check (dec16 _ _) (byteOf target).toNat) = _
    rw [dec16_enc16 _ h.1, toNat_byteOf _ h.2]
  | cancel handle =>
    simp only [commandOf, Instr.wellFormed, fits8, decide_eq_true_eq] at h
    show some (Request.cancel (byteOf handle).toNat) = _
    rw [toNat_byteOf _ h]
  | readNode node =>
    simp only [commandOf, Instr.wellFormed, fits8, decide_eq_true_eq] at h
    show some (Request.readNode (byteOf node).toNat) = _
    rw [toNat_byteOf _ h]
  | readPoint point =>
    simp only [commandOf, Instr.wellFormed, fits16, decide_eq_true_eq] at h
    show some (Request.readPoint (dec16 _ _)) = _
    rw [dec16_enc16 _ h]
  | clearFaultSwitch point =>
    simp only [commandOf, Instr.wellFormed, fits16, decide_eq_true_eq] at h
    show some (Request.clearFaultSwitch (dec16 _ _)) = _
    rw [dec16_enc16 _ h]
  | unknown type => exact absurd rfl (hu type)
  | _ => rfl

/-- A request's fields fit a record. -/
theorem length_requestFields (tag : Byte) (r : Request) (h : (commandOf tag r).wellFormed = true) :
    (requestFields r).length ≤ 65529 := by
  cases r with
  | writeConfig offset data =>
    simp only [commandOf, Instr.wellFormed, Bool.and_eq_true, beq_iff_eq, Config.blockBytes] at h
    simp [requestFields, h.2]
  | program urgency steps =>
    simp only [commandOf, Instr.wellFormed, Bool.and_eq_true, fits8, decide_eq_true_eq] at h
    simp only [requestFields, List.length_append, length_steps, List.length_cons, List.length_nil]
    omega
  | _ => simp [requestFields]

/-- A run of whole records, and bytes that complete none, are completed as these records (R181). -/
theorem completedRecords_flatten (n : Nat) (records : List (List Byte)) (rest : List Byte)
    (h1 : ∀ r ∈ records, r.length = max 2 (dec16 (r.getD 0 0) (r.getD 1 0)))
    (h2 : rest.length < 2 ∨ rest.length < dec16 (rest.getD 0 0) (rest.getD 1 0)) (hn : (records.flatten ++ rest).length ≤ n) :
    completedRecords n (records.flatten ++ rest) = records := by
  induction n generalizing records with
  | zero =>
    cases records with
    | nil => rfl
    | cons r l => have := h1 r (by simp); simp only [List.flatten_cons, List.length_append] at hn; omega
  | succ n ih =>
    cases records with
    | nil =>
      simp only [List.flatten_nil, List.nil_append]
      match rest, h2 with
      | [], _ => rfl
      | [a], _ => rfl
      | a :: b :: l, h2 =>
        simp only [completedRecords]
        simp at h2 ⊢; omega
    | cons r l =>
      have hr := h1 r (by simp)
      obtain ⟨a, b, r', rfl⟩ : ∃ a b r', r = a :: b :: r' := by
        rcases r with _ | ⟨a, _ | ⟨b, r'⟩⟩
        · simp only [List.length_nil] at hr; omega
        · simp only [List.length_cons, List.length_nil] at hr; omega
        · exact ⟨a, b, r', rfl⟩
      simp only [List.getD_cons_zero, List.getD_cons_succ] at hr
      have hh := ih l (fun r hr => h1 r (by simp [hr]))
        (by simp only [List.flatten_cons, List.length_append, List.length_cons] at hn ⊢; omega)
      have e : ((a :: b :: r') :: l).flatten ++ rest = (a :: b :: r') ++ (l.flatten ++ rest) := by simp
      rw [e]
      show (if max 2 (dec16 a b) ≤ ((a :: b :: r') ++ (l.flatten ++ rest)).length then
        List.take (max 2 (dec16 a b)) ((a :: b :: r') ++ (l.flatten ++ rest)) ::
          completedRecords n (List.drop (max 2 (dec16 a b)) ((a :: b :: r') ++ (l.flatten ++ rest))) else []) = _
      rw [← hr, if_pos (by simp), List.take_left, List.drop_left, hh]

end Sys2Proof.Machine
end

