-- ==== Sys2Proof/Tests/Slice0.lean ====
section
/-! SUPPORT. Tests: well-formedness, the manual's worked figures, one step of each command, and for each statement a
state and operands that meet its hypotheses. -/
namespace Sys2Proof.Tests
open Sys2Proof Sys2Proof.Machine

set_option Elab.async false

/-! ### Well-formed commands: one ill-formed command for each check -/

theorem test_wf_write_config_offset : (Instr.writeConfig 0 65536 (List.replicate 64 0)).wellFormed = false := by decide
theorem test_wf_write_config_data : (Instr.writeConfig 0 0 [1, 2, 3]).wellFormed = false := by decide
theorem test_wf_operate : (Instr.operate 0 256 1 1).wellFormed = false ∧ (Instr.operate 0 1 65536 1).wellFormed = false ∧
    (Instr.operate 0 1 1 256).wellFormed = false := by decide
theorem test_wf_program : (Instr.program 0 256 []).wellFormed = false ∧
    (Instr.program 0 1 (List.replicate 256 ⟨1, 1⟩)).wellFormed = false ∧ (Instr.program 0 1 [⟨65536, 1⟩]).wellFormed = false ∧
    (Instr.program 0 1 [⟨1, 256⟩]).wellFormed = false := by decide +kernel
theorem test_wf_cancel_check_reads : (Instr.cancel 0 256).wellFormed = false ∧ (Instr.check 0 65536 1).wellFormed = false ∧
    (Instr.check 0 1 256).wellFormed = false ∧ (Instr.readPoint 0 65536).wellFormed = false ∧
    (Instr.readNode 0 256).wellFormed = false ∧ (Instr.clearFaultSwitch 0 65536).wellFormed = false := by decide
theorem test_wf_unknown_type : (Instr.unknownRequestType 0 0x10).wellFormed = false ∧
    (Instr.unknownRequestType 0 256).wellFormed = false ∧ (Instr.overrun 0 256).wellFormed = false := by decide
theorem test_wf_lines : (Instr.rawInputChange (.contactOpen 0) true).wellFormed = false ∧
    (Instr.rawInputChange (.contactClosed 25) true).wellFormed = false ∧
    (Instr.rawInputChange (.presence 5) true).wellFormed = false ∧ (Instr.rawInputChange (.healthy 0) true).wellFormed = false ∧
    (Instr.rawInputChange (.binary 9) true).wellFormed = false := by decide
theorem test_wf_timers : (Instr.filterTimerExpiry (.point 65536)).wellFormed = false ∧
    (Instr.stuckTimerExpiry 65536).wellFormed = false ∧ (Instr.peerExpiry 49).wellFormed = false ∧
    (Instr.peerExpiry 0).wellFormed = false ∧ (Instr.storedTimeLapse (.completion 65536)).wellFormed = false ∧
    (Instr.storedTimeLapse (.movement 25)).wellFormed = false := by decide
theorem test_wf_claim_timers : (Instr.secondAskTime 25).wellFormed = false ∧ (Instr.windowEnd 0).wellFormed = false ∧
    (Instr.refreshTime 25).wellFormed = false ∧ (Instr.peerEntryExpiry 0 1).wellFormed = false ∧
    (Instr.peerEntryExpiry 1 49).wellFormed = false := by decide
theorem test_wf_bulletin : (Instr.bulletin 256 3 0 0 0 []).wellFormed = false ∧
    (Instr.bulletin 1 65536 0 0 0 []).wellFormed = false ∧ (Instr.bulletin 1 3 0 0 65536 []).wellFormed = false ∧
    (Instr.bulletin 1 3 0 0 0 (List.replicate 25 ⟨1, 1, 0⟩)).wellFormed = false ∧
    (Instr.bulletin 1 3 0 0 0 [⟨65536, 1, 0⟩]).wellFormed = false := by decide
theorem test_wf_claim_frames : (Instr.ask 1 3 256 0 0 0).wellFormed = false ∧ (Instr.ask 1 3 1 256 0 0).wellFormed = false ∧
    (Instr.ask 1 3 1 0 256 0).wellFormed = false ∧ (Instr.hold 1 3 1 0 0 65536).wellFormed = false ∧
    (Instr.hold 256 3 1 0 0 1).wellFormed = false ∧ (Instr.drop 1 65536 1).wellFormed = false ∧
    (Instr.drop 1 3 256).wellFormed = false ∧ (Instr.yieldRequest 1 3 1 256).wellFormed = false := by decide

/-! ### Figures the manual works out -/

/-- R179: the check value of the CRC. -/
theorem test_crc_of_digits : crc16 [0x31, 0x32, 0x33, 0x34, 0x35, 0x36, 0x37, 0x38, 0x39] = 0x29B1 := by decide +kernel

/-- Section 12.2: the HOLD of unit 3, revision 3, zone 1, urgency 1, at the default refresh, before its CRC. -/
theorem test_hold_frame_bytes :
    (frameBytes ⟨3, 3, .hold 1 1 0 1500⟩).take 10 = [0x22, 3, 0, 3, 5, 1, 1, 0, 0x05, 0xDC] ∧
      (frameBytes ⟨3, 3, .hold 1 1 0 1500⟩).length = 12 := by decide

/-- R95: the back-offs of units 2, 3 and 5; R94: the first attempt's spell. -/
theorem test_backoff_table :
    (List.range' 1 7).map (neededSpell 2) = [600, 50, 300, 550, 800, 250, 500] ∧
      (List.range' 1 7).map (neededSpell 3) = [750, 200, 450, 700, 150, 400, 650] ∧
      (List.range' 1 7).map (neededSpell 5) = [250, 500, 750, 200, 450, 700, 150] ∧ neededSpell 3 0 = 10 := by decide

/-- R45's example: with 40 held, 41 and 32 807 are newer, 32 808, 0 and 39 older. -/
theorem test_state_distance : stateDistance 41 40 = 1 ∧ stateDistance 32807 40 = 32767 ∧ stateDistance 32808 40 = 32768 ∧
    stateDistance 0 40 = 65496 ∧ stateDistance 39 40 = 65535 ∧ stateDistance 0 65535 = 1 := by decide

/-- R52's and R123's clamps. -/
theorem test_clamps : clampHold 9 = 10 ∧ clampHold 30000 = 30000 ∧ clampHold 30001 = 30000 ∧ clampAsk 39 = 40 ∧
    clampAsk 1001 = 1000 ∧ clampClaimHold 599 = 600 ∧ clampClaimHold 6001 = 6000 := by decide

/-- R121's examples. -/
theorem test_rank_examples : (Rank.better ⟨2, 0, 40⟩ ⟨1, 15, 1⟩) = true ∧ (Rank.better ⟨1, 3, 9⟩ ⟨1, 2, 2⟩) = true ∧
    (Rank.better ⟨1, 3, 2⟩ ⟨1, 3, 9⟩) = true := by decide

/-- R14: the quiet time at the defaults and at the extremes. -/
theorem test_quiet_times : Params.default.quietTime = 4150 ∧
    ({ Params.default with heartbeat := 500, margin := 10 }).quietTime = 1110 ∧
    ({ Params.default with heartbeat := 10000, margin := 1000 }).quietTime = 21100 := by decide

/-! ### Yard E1, unit 3 (section 1.3): its image loads -/

def pointRow (id kind owner a b : Nat) : List Byte := enc16 id ++ [byteOf kind, byteOf owner, byteOf a, byteOf b]

def localRow (id input coil : Nat) : List Byte := enc16 id ++ [byteOf input, byteOf coil, 0xFF, 0xFF, 0xFF, 0xFF, 0, 0]

def e1Points : List Byte :=
  pointRow 201 2 2 1 3 ++ pointRow 202 1 2 3 4 ++ pointRow 203 2 2 4 2 ++ pointRow 301 2 3 1 5 ++ pointRow 302 2 3 2 5 ++
    pointRow 303 1 3 5 6 ++ pointRow 304 2 3 6 7 ++ pointRow 305 3 3 6 0 ++ pointRow 306 3 3 7 0 ++ pointRow 310 4 3 7 0 ++
    pointRow 501 2 5 1 8 ++ pointRow 502 2 5 2 8 ++ pointRow 503 1 5 8 9 ++ pointRow 504 2 5 9 10 ++ pointRow 505 3 5 9 0 ++
    pointRow 506 3 5 10 0 ++ pointRow 510 4 5 10 0

def e1Locals : List Byte :=
  [7] ++ localRow 301 1 1 ++ localRow 302 2 2 ++ localRow 303 3 3 ++ localRow 304 4 4 ++ localRow 305 5 5 ++
    localRow 306 6 6 ++ localRow 310 1 0

/-- The E1 image of unit 3, 211 bytes (section 12.6), with a claim window, 0xFFFF being unstated. -/
def e1Image (window : Nat) : List Byte :=
  sealCrc (enc16 211 ++ [3] ++ enc16 3 ++ [10] ++ enc16 17 ++ [2, 0xFF] ++ List.replicate 8 0xFF ++ enc16 window ++
    List.replicate 8 0xFF ++ e1Points ++ e1Locals ++ [1, 2, 1, 3, 2, 2, 2, 4])

def LoadResult.cause : LoadResult → Option HaltCause
  | .loaded _ => none
  | .failed c => some c

theorem test_e1_length : (e1Image 0xFFFF).length = 211 := by decide +kernel
theorem test_e1_loads : LoadResult.cause (checkImage (e1Image 0xFFFF)) = none := by decide +kernel

/-- R12's example: a claim window of 300 with the refresh at 500 fails check 10. -/
theorem test_e1_wide_window : LoadResult.cause (checkImage (e1Image 300)) = some (.configInvalid 10) := by decide +kernel

/-- A small yard of unit 3 in its store: one local breaker, one zone. -/
def smallStore : List Host.Cell :=
  storeWriteBytes [] 0 (sealCrc (enc16 50 ++ [3] ++ enc16 3 ++ [10] ++ enc16 1 ++ [1, 0xFF] ++ List.replicate 18 0xFF ++
    pointRow 303 1 3 5 6 ++ [1] ++ localRow 303 3 3 ++ [1, 1, 5]))

theorem test_small_store_loads : LoadResult.cause (loadStore smallStore) = none := by decide +kernel

def LoadResult.locals : LoadResult → List LocalDef
  | .loaded m => m.locals
  | .failed _ => []

/-- A yard of unit 3 in its store with settings at their bounds: breaker 303 (input pair 24, coil pair 12, a run time of 50, a
recovery of 10 000), closed only while 310 shows PRESENT; voltage point 310 on input 4; no zone. -/
def mixedStore : List Host.Cell :=
  storeWriteBytes [] 0 (sealCrc (enc16 66 ++ [3] ++ enc16 3 ++ [10] ++ enc16 2 ++ [0, 0xFF] ++ List.replicate 18 0xFF ++
    pointRow 303 1 3 5 6 ++ pointRow 310 4 3 7 0 ++ [2] ++
    (enc16 303 ++ [24, 12] ++ enc16 50 ++ enc16 10000 ++ [1, 0] ++ enc16 310 ++ [6]) ++ localRow 310 4 0))

theorem test_mixed_store_loads : LoadResult.locals (loadStore mixedStore) =
    [⟨303, 24, 12, 50, 10000, [⟨310, .present⟩], []⟩, ⟨310, 4, 0, 0, 0, [], []⟩] := by decide +kernel

/-! ### A small yard in RUN

Unit 3 with disconnector 301 (nodes 1, 2), breaker 302 (nodes 2, 3), earthing switch 305 (node 3), voltage point 310 (node 1)
and binary point 320, beside breaker 201 (nodes 3, 4) of unit 2; zone 1 holds node 1, zone 2 node 2. -/

def yard : YardModel :=
  { unit := 3, revision := 3, highNode := 4
    points := [⟨201, .breaker, 2, 3, 4⟩, ⟨301, .disconnector, 3, 1, 2⟩, ⟨302, .breaker, 3, 2, 3⟩, ⟨305, .earthing, 3, 3, 0⟩,
               ⟨310, .voltage, 3, 1, 0⟩, ⟨320, .binary, 3, 0, 0⟩]
    locals := [⟨301, 1, 1, 15000, 1000, [⟨201, .opened⟩], []⟩, ⟨302, 2, 2, 200, 300, [], []⟩, ⟨305, 3, 3, 10000, 1000, [], []⟩,
               ⟨310, 1, 0, 0, 0, [], []⟩, ⟨320, 1, 0, 0, 0, [], []⟩]
    zones := [⟨1, [1]⟩, ⟨2, [2]⟩]
    params := .default }

def at0 (id : Nat) (v : PointValue) : LocalPoint := ⟨id, some v, none, false, none, none⟩

/-- In RUN at clock 5 000: every switch open, no voltage, selector REMOTE, unit 2 GOOD until clock 6 000, link ACTIVE and idle,
state number 7 with its next bulletin due at clock 5 100, no program, no claim, nothing on the bay port. -/
def base : State :=
  { State.reset with
    micros := 5000000
    ctl := { State.reset.ctl with mode := .run, model := yard, quietEnd := 4150 }
    bay :=
      { State.reset.bay with
        points := [at0 301 .opened, at0 302 .opened, at0 305 .opened, at0 310 .absent, at0 320 .low]
        selector := ⟨some .remote, none⟩ }
    image :=
      { entries := [⟨201, .breaker, 2, some .opened, false, .held⟩, ⟨301, .disconnector, 3, some .opened, false, .held⟩,
                    ⟨302, .breaker, 3, some .opened, false, .held⟩, ⟨305, .earthing, 3, some .opened, false, .held⟩,
                    ⟨310, .voltage, 3, some .absent, false, .held⟩, ⟨320, .binary, 3, some .low, false, .held⟩]
        peers := State.reset.image.peers.map fun p => if p.unit = 2 then ⟨2, .good, 40, 1, 6000, false⟩ else p
        moves := [⟨1, none⟩, ⟨2, none⟩] }
    claims := ⟨[⟨1, .idle, []⟩, ⟨2, .idle, []⟩], none⟩
    pub := ⟨some 7, 1, 8, .due 5100⟩
    port := { State.reset.port with events := [] } }

/-- What a command makes of a state. -/
def after (c : Instr) (s : State) : State :=
  match exec c s with
  | .next t => t
  | .fault f => nomatch f
  | .refused _ => s

/-- A program of one step on breaker 302 closing, in a phase, with both its zones. -/
def prog (ph : Phase) : Program := { newProgram 9 1 [⟨302, .closed⟩] [2] with stepIndex := 1, phase := ph, claimStart := some 4900 }

/-- `base` with that program active and its zone in a state of its own. -/
def withProg (ph : Phase) (own : OwnState) : State :=
  { base with seq := ⟨[], some (prog ph), 10⟩, claims := ⟨[⟨1, .idle, []⟩, ⟨2, own, []⟩], some [2]⟩ }

/-- The drive of that program's step. -/
def drive : DriveRecord := ⟨302, .closed, 4900, 5100, false, 9, 1⟩

/-- `base` with that step in DRIVING and its drive under way. -/
def driven : State :=
  { withProg .driving (.held 5200) with bay := { base.bay with drive := some drive } }

/-- A frame in hand after so many attempts, in a stage. -/
def sending (b : FrameBody) (count : Nat) (stage : TxStage) (s : State) : State :=
  { s with link := { s.link with inHand := some ⟨⟨3, 3, b⟩, count, true, 4990000⟩, stage := stage } }

def kindsOf (s : State) : List Nat := s.port.events.map (·.body.kindCode)
def lastReply (s : State) : Option ReplyStatus := s.port.replies.getLast?.map (·.status)

/-! ### One step of each command -/

/-- `base` in another mode. -/
def inMode (m : UnitMode) : State := { base with ctl := { base.ctl with mode := m } }

/-- `base` HALTED with a block on its way into the store at 64. -/
def storing : State :=
  { inMode .halted with
    ctl := { (inMode .halted).ctl with haltCause := some .haltRequest, blockWrite := some ⟨64, List.replicate 64 0x5A⟩ }
    port := { base.port with inHand := some ⟨8, .writeConfig 64 (List.replicate 64 0x5A)⟩ } }

/-- `base` in an orderly stop for a HALT, its last frame in an attempt. -/
def stopping (stage : TxStage) : State :=
  sending (.bulletin 7 1 0 []) 0 stage
    { base with
      ctl := { base.ctl with stopping := some .halt }, port := { base.port with inHand := some ⟨8, .halt⟩ },
      pub := { base.pub with stage := .stopped } }

theorem test_power_on : (after .powerOn base).ctl.mode = .loading ∧ (after .powerOn base).micros = 0 ∧
    kindsOf (after .powerOn base) = [1] := by decide
theorem test_supply_failure_drops_the_coil : driven.coils = [(2, .closed)] ∧ (after .supplyFailure driven).coils = [] := by decide
theorem test_loading_of_a_blank_store_halts : (after .loadingEnd .reset).ctl.haltCause = some .configCrc := by decide
theorem test_quiet_time_ends_with_bulletin_0 :
    (after .quietTimeExpiry (inMode .quiet)).link.inHand.map (·.frame.body) =
      some (.bulletin 0 0 58 [⟨301, 1, 0⟩, ⟨302, 1, 0⟩, ⟨305, 1, 0⟩, ⟨310, 5, 0⟩, ⟨320, 7, 0⟩]) := by decide
theorem test_read_status_clears_lost :
    (after (.readStatus 1) { base with port := { base.port with lost := true } }).port.lost = false := by decide
theorem test_restart_in_run_answers_then_stops : lastReply (after (.restart 1) driven) = some .ok ∧
    (after (.restart 1) driven).bay.drive = none ∧
    (after (.restart 1) driven).link.inHand.map (·.frame.body) = some (.drop 2) := by decide
theorem test_halt_with_a_program_is_busy : lastReply (after (.halt 1) driven) = some .busy := by decide
theorem test_write_config_offset : lastReply (after (.writeConfig 1 65 (List.replicate 64 0)) (inMode .halted)) = some .badRequest ∧
    lastReply (after (.writeConfig 1 64 (List.replicate 64 0)) base) = some .notHalted := by decide
theorem test_block_stored : storeRead (after .configBlockStored storing).ctl.store 127 = 0x5A ∧
    storeRead (after .configBlockStored storing).ctl.store 128 = 0xFF ∧
    lastReply (after .configBlockStored storing) = some .ok := by decide
theorem test_stop_ends_in_halt : (after (.stopFrameOutcome .collided) (stopping (.sending 4999990))).ctl.mode = .halted ∧
    lastReply (after (.stopFrameOutcome .collided) (stopping (.sending 4999990))) = some .ok ∧
    (after (.stopFrameOutcome .collided) (stopping (.sending 4999990))).seq = ⟨[], none, 1⟩ := by decide
theorem test_stop_frame_is_skipped : (after .stopFrameSkip (stopping (.deferring none))).ctl.haltCause = some .haltRequest := by
  decide
theorem test_operate_asks_for_the_zone : (after (.operate 1 1 302 2) base).own 2 = .asking (some 5030) 5060 ∧
    (after (.operate 1 1 302 2) base).link.inHand.map (·.frame.body) = some (.ask 2 1 0 120) := by decide
theorem test_program_form : lastReply (after (.program 1 4 [⟨302, 2⟩]) base) = some .badRequest ∧
    lastReply (after (.program 1 1 []) base) = some .badRequest := by decide
theorem test_cancel_ends_the_active_program : kindsOf (after (.cancel 1 9) (withProg .claiming .waiting)) = [3] ∧
    (after (.cancel 1 9) (withProg .claiming .waiting)).link.inHand.map (·.frame.body) = some (.drop 2) := by decide
theorem test_check_reads_the_condition :
    (after (.check 1 301 2) { base with image := { base.image with peers := State.reset.image.peers } }).port.replies.getLast?.map
      (·.body) = some (.verdict (.refuse ⟨.extraCondition, 1, 201, 0, .unsure⟩)) := by decide
theorem test_read_point_expiry : (after (.readPoint 1 201) base).port.replies.getLast?.map (·.body) =
    some (.point ⟨201, .breaker, 2, some .opened, false, .held, .good, none, some .good, 40, 1, 1000⟩) := by decide
theorem test_read_node_earth : (after (.readNode 1 0) base).port.replies.getLast?.map (·.body) =
    some (.node 0 .no .yes .earthed) ∧ lastReply (after (.readNode 1 5) base) = some .noSuchNode := by decide
theorem test_read_claims_leaves_out_the_expired :
    (after (.readClaims 1) { base with claims := ⟨[⟨1, .idle, [⟨2, .ask, 1, 0, 5000⟩, ⟨5, .hold, 0, 2, 5100⟩]⟩], none⟩ }).port.replies.map
      (·.body) = [.claims none [⟨1, .idle, [⟨5, .hold, 0, 2, 100⟩]⟩]] := by decide
theorem test_read_event_takes_the_head :
    (after (.readEvent 1) { base with port := { base.port with events := [⟨1, .peerGood 2⟩, ⟨2, .peerStale 2⟩] } }).port.events =
      [⟨2, .peerStale 2⟩] ∧ lastReply (after (.readEvent 1) base) = some .empty := by decide
theorem test_read_capture_empty : lastReply (after (.readCapture 1) base) = some .empty := by decide
theorem test_unlock_capture_releases_alert : (after .runTimeExpiry (driven.setMicros 5100000)).port.capture.isSome = true ∧
    (after (.unlockCapture 1) (after .runTimeExpiry (driven.setMicros 5100000))).port.capture = none := by decide
theorem test_clear_fault_switch : lastReply (after (.clearFaultSwitch 1 302)
      { base with bay := { base.bay with points := [⟨302, some .travel, none, true, none, none⟩] } }) = some .notAtEnd ∧
    kindsOf (after (.clearFaultSwitch 1 302)
      { base with bay := { base.bay with points := [⟨302, some .closed, none, true, none, none⟩] } }) = [6] := by decide
theorem test_clear_fault_link_starts_a_probe :
    (after (.clearFaultLink 1) { base with link := { base.link with mode := .muted, dup := true } }).link.inHand.map
      (·.frame.body) = some (.bulletin 7 0 58 [⟨301, 1, 0⟩, ⟨302, 1, 0⟩, ⟨305, 1, 0⟩, ⟨310, 5, 0⟩, ⟨320, 7, 0⟩]) := by decide
theorem test_unknown_type : lastReply (after (.unknownRequestType 1 0x7F) (inMode .loading)) = some .badRequest := by decide
theorem test_bad_record_is_discarded : after (.requestRecordDiscard [0, 6, 1, 0, 0, 0]) base = base := by decide +kernel
theorem test_overrun : lastReply (after (.overrun 1 0x20) { base with port := { base.port with
    inHand := some ⟨8, .halt⟩, waiting := some ⟨9, .readStatus⟩ } }) = some .overrun := by decide
theorem test_gap_discards : after (.recordGapTimeout [0, 9, 1]) base = base := by decide
theorem test_raw_change_restarts_the_filter :
    ((after (.rawInputChange (.contactClosed 2) true) base).localPoint? 302).map (·.pending) =
      some (some ⟨.closed, 5000⟩) := by decide
theorem test_filter_completes_the_drive :
    let s := (driven.setMicros 5020000).mapPoint 302 fun p => { p with pending := some ⟨.closed, 5000⟩ }
    (after (.filterTimerExpiry (.point 302)) s).bay.report = some .completed ∧
      (after (.filterTimerExpiry (.point 302)) s).bay.drive = none ∧
      ((after (.filterTimerExpiry (.point 302)) s).localPoint? 302).map (·.completion) = some (some 5020) := by decide
theorem test_filter_turns_the_selector :
    kindsOf (after (.filterTimerExpiry .selector) { withProg .claiming .waiting with
      bay := { base.bay with selector := ⟨some .remote, some (.atBay, 4980)⟩ } }) = [15, 3] := by decide
theorem test_run_time_expiry : kindsOf (after .runTimeExpiry (driven.setMicros 5100000)) = [12, 5] := by decide
theorem test_stuck_timer : kindsOf (after (.stuckTimerExpiry 301)
    { base with bay := { base.bay with points := [⟨301, some .travel, none, false, none, some 5000⟩] } }) = [12, 5] := by decide
theorem test_drive_end_report : kindsOf (after .driveEndReport { withProg .driving (.held 5200) with
    bay := { base.bay with report := some .completed } }) = [2, 3] := by decide
theorem test_claim_deadline : kindsOf (after .claimDeadline ((withProg .claiming .waiting).setMicros 14900000)) = [3] ∧
    kindsOf (after .claimDeadline ((withProg .claiming .waiting).setMicros 14899999)) = [] := by decide
theorem test_guard_release_energises_the_coil :
    (after .guardReleaseTime (withProg (.guard 5000 35000) (.held 5200))).coils = [(2, .closed)] := by decide
theorem test_guard_waits_for_the_settle_time :
    (after .guardReleaseTime { withProg (.guard 5000 35000) (.held 5200) with
      image := { base.image with moves := [⟨1, none⟩, ⟨2, some 4700⟩] } }).seq.active.map (·.phase) =
        some (.guard 5100 35000) := by decide
theorem test_guard_deadline : kindsOf (after .guardDeadline (withProg (.guard 5000 5000) (.held 5200))) = [3] := by decide
theorem test_bulletin_repeat_moves_the_expiry :
    ((after (.bulletin 2 3 40 2 5 [⟨201, 2, 0⟩]) base).peer? 2).map (·.expiry) = some 5010 ∧
      ((after (.bulletin 2 3 40 2 5 [⟨201, 2, 0⟩]) base).entry? 201).map (·.value) = some (some .opened) := by decide
theorem test_bulletin_new_marks_missing : ((after (.bulletin 2 3 41 0 500 []) base).entry? 201).map (·.presence) =
    some .missing := by decide
theorem test_damaged_frame : after (.damagedFrame [0x23, 2, 0, 3, 1, 1, 0, 0]) base = base := by decide +kernel
theorem test_peer_expiry : kindsOf (after (.peerExpiry 2) (base.setMicros 6000000)) = [7] ∧
    kindsOf (after (.peerExpiry 2) (base.setMicros 5999999)) = [] := by decide
theorem test_movement_lapses : (after (.storedTimeLapse (.movement 1)) { (base.setMicros 1073741924000) with
    image := { base.image with moves := [⟨1, some 100⟩] } }).move? 1 = none := by decide
theorem test_ask_is_answered_by_the_holder :
    (after (.ask 2 3 2 3 0 120) (withProg (.guard 5000 6000) (.held 5200))).link.inHand.map (·.frame.body) =
      some (.hold 2 1 0 1500) := by decide
theorem test_hold_ends_the_window : (after (.hold 2 3 2 0 0 1500) (withProg .claiming (.asking none 5060))).own 2 = .waiting ∧
    (after (.hold 2 3 2 0 0 1500) (withProg .claiming (.asking none 5060))).seq.active.map (·.defer) = some 1 := by decide
theorem test_drop_returns_to_asking :
    (after (.drop 2 3 2) { withProg .claiming .waiting with
      claims := ⟨[⟨1, .idle, []⟩, ⟨2, .waiting, [⟨2, .hold, 0, 0, 6000⟩]⟩], some [2]⟩ }).own 2 = .asking (some 5030) 5060 := by
  decide
theorem test_yield_request_gives_back : kindsOf (after (.yieldRequest 2 3 2 2) (withProg (.guard 5000 6000) (.held 5200))) =
    [11] := by decide
theorem test_second_ask : (after (.secondAskTime 2) (withProg .claiming (.asking (some 5000) 5030))).own 2 = .asking none 5030 := by
  decide
theorem test_window_end_wins : (after (.windowEnd 2) { withProg .claiming (.asking none 5000) with
    image := { base.image with moves := [⟨1, none⟩, ⟨2, some 4999⟩] } }).own 2 = .held 5500 := by decide
theorem test_refresh : (after (.refreshTime 2) (withProg (.guard 5000 6000) (.held 5000))).link.inHand.map (·.frame.body) =
    some (.hold 2 1 0 1500) := by decide
theorem test_peer_entry_expiry :
    (after (.peerEntryExpiry 1 2) { base with claims := ⟨[⟨1, .idle, [⟨2, .ask, 1, 0, 5000⟩]⟩], none⟩ }).peersOf 1 = [] := by decide
theorem test_bulletin_due_doubles_the_interval :
    (after .bulletinDue (base.setMicros 5100000)).pub = ⟨some 7, 2, 16, .offered 7 2⟩ := by decide
theorem test_medium_busy_stops_the_spell :
    (after .mediumBusy (sending (.drop 1) 0 (.deferring (some 4999995)) base)).link.stage = .deferring none := by decide
theorem test_medium_idle_restarts_the_spell :
    (after .mediumIdle (sending (.drop 1) 0 (.deferring none) { base with link := { base.link with mediumBusy := true } })).link.stage =
      .deferring (some 5000000) := by decide
theorem test_idle_spell : (after .idleSpellComplete (sending (.drop 1) 1 (.deferring (some 4999251)) base)).link.stage =
      .deferring (some 4999251) ∧
    (after .idleSpellComplete (sending (.drop 1) 1 (.deferring (some 4999250)) base)).link.stage.attempting = true := by decide
theorem test_echo_matched_sets_the_due_time :
    (after .echoMatched (sending (.bulletin 7 1 66 []) 0 (.echoWait 4999999)
      { base with pub := ⟨some 7, 1, 8, .offered 7 1⟩ })).pub.stage = .due 5008 := by decide
theorem test_echo_mismatch_mutes : kindsOf (after .echoMismatch (sending (.drop 1) 7 (.sending 5000009) base)) = [12, 13] := by
  decide
theorem test_echo_timeout_counts : (after .echoTimeout (sending (.drop 1) 0 (.echoWait 4999800) base)).link.inHand.map (·.count) =
    some 1 ∧ (after .echoTimeout (sending (.drop 1) 0 (.echoWait 4999801) base)).link.inHand.map (·.count) = some 0 := by decide
theorem test_probe_timer : (after .probeTimerExpiry { base with link := { base.link with
    mode := .muted, probeTimer := some 5000 } }).link.inHand.map (·.frame.body.slot) = some 0 := by decide

/-! ### States and operands that meet the statements' hypotheses -/

/-- `base` without supply. -/
def unsupplied : State := { base with supplied := false }

/-- A program of two steps, 302 CLOSED and then 301 CLOSED, in a phase. -/
def prog2 (ph : Phase) : Program :=
  { newProgram 9 1 [⟨302, .closed⟩, ⟨301, .closed⟩] [1, 2] with stepIndex := 1, phase := ph, claimStart := some 4900 }

/-- `base` with that program active and both zones HELD. -/
def withProg2 (ph : Phase) : State :=
  { base with seq := ⟨[], some (prog2 ph), 10⟩, claims := ⟨[⟨1, .held 5200, []⟩, ⟨2, .held 5200, []⟩], some [1, 2]⟩ }

/-- A switch of `base`, its filtered value and its entry at another value. -/
def withValue (id : Nat) (v : PointValue) (s : State) : State :=
  (s.mapPoint id fun p => { p with value := some v }).mapEntry id fun e => { e with value := some v }

theorem LoadResult.loaded_of_cause {r : LoadResult} (h : LoadResult.cause r = none) : ∃ m, r = .loaded m := by
  cases r with
  | loaded m => exact ⟨m, rfl⟩
  | failed c => cases h

theorem base_storeInv : base.storeInv := ⟨by decide, nofun, nofun⟩

theorem storing_storeInv : storing.storeInv :=
  ⟨by decide, fun _ h => by cases h; exact ⟨by decide, by simp⟩, nofun⟩

theorem base_modeInv : base.modeInv := by unfold State.modeInv; decide
theorem base_linkInv : base.linkInv := by unfold State.linkInv; decide
theorem base_portInv : base.portInv := by unfold State.portInv; decide

theorem base_programInv : base.programInv := by
  unfold State.programInv; decide

theorem test_met_StepTakesTheFrontCommand :
    ({ base with pending := [.loadingEnd, .powerOn] } : State).pending = .loadingEnd :: [.powerOn] := rfl

theorem test_met_IdleStepIsAMicrosecond :
    base.pending = [] ∧ base.supplied = true ∧ unsupplied.pending = [] ∧ unsupplied.supplied = false ∧
    (sending (.drop 1) 0 (.sending 5000001) base).link.stage = .sending 5000001 ∧
    (sending (.drop 1) 0 (.sending 5000001) base).pending = [] ∧ (∀ last, base.link.stage ≠ .sending last) :=
  ⟨rfl, rfl, rfl, rfl, rfl, rfl, nofun⟩

theorem test_met_EveryCommandCompletes :
    (Instr.halt 0) ≠ .powerOn ∧ (Instr.halt 0) ≠ .supplyFailure ∧ (Instr.halt 0) ≠ .configBlockStored :=
  ⟨nofun, nofun, nofun⟩

theorem test_met_WithoutSupplyNothingActs :
    unsupplied.supplied = false ∧ Instr.loadingEnd ≠ .powerOn ∧ Instr.loadingEnd ≠ .mediumBusy ∧
    Instr.loadingEnd ≠ .mediumIdle ∧ (∀ line made, Instr.loadingEnd ≠ .rawInputChange line made) :=
  ⟨rfl, nofun, nofun, nofun, nofun⟩

theorem test_met_SupplyComesAndGoes :
    base.storeInv ∧ base.supplied = true ∧ base.ctl.blockWrite = none ∧ storing.storeInv ∧ storing.supplied = true :=
  ⟨base_storeInv, rfl, rfl, storing_storeInv, rfl⟩

/-- `State.reset` with an image in its store. -/
def toLoad : State := { State.reset with ctl := { State.reset.ctl with store := smallStore } }

theorem test_met_LoadingEndsInQuietOrHalted :
    State.reset.supplied = true ∧ State.reset.ctl.mode = .loading ∧ loadStore State.reset.ctl.store = .failed .configCrc ∧
    toLoad.supplied = true ∧ toLoad.ctl.mode = .loading ∧ (∃ m, loadStore toLoad.ctl.store = .loaded m) :=
  ⟨rfl, rfl, by decide, rfl, rfl, LoadResult.loaded_of_cause test_small_store_loads⟩

theorem test_met_LoadedModelObeysTheLimits :
    (∃ m, loadStore smallStore = .loaded m) ∧ ∃ m, loadStore mixedStore = .loaded m ∧ m.locals.length = 2 :=
  ⟨LoadResult.loaded_of_cause test_small_store_loads, by
    have h := test_mixed_store_loads
    cases hl : loadStore mixedStore with
    | loaded m => rw [hl] at h; exact ⟨m, rfl, by rw [show m.locals = _ from h]; rfl⟩
    | failed c => rw [hl] at h; exact absurd h (by simp [LoadResult.locals])⟩

/-- What the image of `mixedStore` says. -/
def mixedImage : StoredImage :=
  { unit := 3, revision := 3, highNode := 10, recovery := 0xFF, times := List.replicate 9 0xFFFF,
    points := [⟨303, 1, 3, 5, 6⟩, ⟨310, 4, 3, 7, 0⟩],
    locals := [⟨303, 24, 12, 50, 10000, [⟨310, 6⟩], []⟩, ⟨310, 4, 0, 0xFFFF, 0xFFFF, [], []⟩], zones := [] }

/-- The same with a claim window of 300, which fails check 10. -/
def wideImage : StoredImage := { mixedImage with times := [0xFFFF, 0xFFFF, 0xFFFF, 0xFFFF, 300, 0xFFFF, 0xFFFF, 0xFFFF, 0xFFFF] }

def wideStore : List Host.Cell := storeWriteBytes [] 0 wideImage.bytes

theorem mixedImage_fits : mixedImage.Fits := by
  simp only [StoredImage.Fits, RawPoint.Fits, RawLocal.Fits, ZoneFits]; decide
theorem wideImage_fits : wideImage.Fits := by
  simp only [StoredImage.Fits, RawPoint.Fits, RawLocal.Fits, ZoneFits]; decide

/-- Checks 1 to 9 of both images, and the last two of the first. -/
theorem mixedImage_passes (d : StoredImage) (h : d = mixedImage ∨ d = wideImage) (k : Nat) (h1 : 1 ≤ k) (h2 : k ≤ 9) :
    d.Passes k := by
  have h5 : d.Passes 5 := by rw [passes5_iff]; rcases h with rfl | rfl <;> decide
  interval_cases k
  · rcases h with rfl | rfl <;> simp only [StoredImage.Passes] <;> decide
  · rcases h with rfl | rfl <;> simp only [StoredImage.Passes] <;> decide
  · rw [passes3_iff]; rcases h with rfl | rfl <;> decide
  · rw [passes4_iff]; rcases h with rfl | rfl <;> decide
  · exact h5
  · rw [passes6_iff]; rcases h with rfl | rfl <;> decide
  · rw [passes7_iff]; rcases h with rfl | rfl <;> decide
  · rw [passes8_iff]; rcases h with rfl | rfl <;> decide
  · rw [passes9_iff d h5]; rcases h with rfl | rfl <;> decide

theorem test_met_LoadedModelObeysTheLimits_loads :
    StoredIn mixedImage mixedStore ∧ ∀ k, 1 ≤ k → k ≤ 11 → mixedImage.Passes k := by
  refine ⟨⟨mixedImage_fits, by decide +kernel, by decide +kernel⟩, fun k h1 h2 => ?_⟩
  rcases (by omega : k ≤ 9 ∨ k = 10 ∨ k = 11) with h | rfl | rfl
  · exact mixedImage_passes _ (.inl rfl) k h1 h
  · rw [passes10_iff]; decide
  · rw [passes11_iff]; decide

theorem test_met_LoadedModelObeysTheLimits_fails :
    StoredIn wideImage wideStore ∧ (∀ j, 1 ≤ j → j < 10 → wideImage.Passes j) ∧ ¬ wideImage.Passes 10 := by
  refine ⟨⟨wideImage_fits, by decide +kernel, by decide +kernel⟩, fun k h1 h2 =>
    mixedImage_passes _ (.inr rfl) k h1 (by omega), ?_⟩
  rw [passes10_iff]; decide

/-- An image of good CRC that counts a point which it has no bytes for. -/
def shortImage : List Byte :=
  sealCrc (enc16 31 ++ [3] ++ enc16 3 ++ [10] ++ enc16 1 ++ [0, 0xFF] ++ List.replicate 18 0xFF ++ [0])

def shortStore : List Host.Cell := storeWriteBytes [] 0 shortImage

theorem test_met_LoadedModelObeysTheLimits_unread :
    loadStore shortStore = .failed (.configInvalid 3) ∧ loadStore shortStore ≠ .failed .configCrc ∧
      ∀ d, ¬ StoredIn d shortStore := by
  have h3 : loadStore shortStore = .failed (.configInvalid 3) := by decide +kernel
  refine ⟨h3, by rw [h3]; decide, ?_⟩
  rintro d ⟨hf, hl, hb⟩
  have hn := length_bytes d hf.2.2.2.2.1
  have e : ∀ i, i < d.bytes.length → storeRead shortStore i = d.bytes.getD i 0 := by
    intro i hi
    conv_rhs => rw [← hb]
    simp [hi]
  have hr := readHeader_bytes d hf
  have h6 : wordAt d.bytes 6 = 1 := by
    simp only [wordAt, ← e 6 (by omega), ← e (6 + 1) (by omega)]; decide +kernel
  have h0 : dec16 (d.bytes.getD 0 0) (d.bytes.getD 1 0) = 31 := by
    rw [← e 0 (by omega), ← e 1 (by omega)]; decide +kernel
  have hp : d.points.length = 1 := by
    rw [← h6]; exact (congrArg RawImage.pointCount hr).symm
  have hs : d.sections.length = 1 := by
    simp only [StoredImage.bytes, sealCrc, enc16, List.cons_append, List.nil_append, List.append_assoc,
      List.getD_cons_zero, List.getD_cons_succ] at h0
    rw [dec16_enc16 _ (by omega)] at h0; omega
  match hd : d.points, hp with
  | [p], _ => simp [StoredImage.sections, hd, RawPoint.bytes] at hs; omega

/-- `base` in QUIET, its quiet time ending at a clock reading, in a link mode. -/
def quiet (quietEnd : Time) (m : LinkMode) : State :=
  { inMode .quiet with ctl := { (inMode .quiet).ctl with quietEnd := quietEnd }, link := { base.link with mode := m } }

theorem quiet_modeInv (e : Time) (m : LinkMode) : (quiet e m).modeInv := ⟨nofun, nofun, by constructor <;> nofun, nofun⟩
theorem quiet_linkInv (e : Time) (m : LinkMode) : (quiet e m).linkInv :=
  ⟨⟨fun _ => rfl, fun _ => rfl⟩, fun _ => rfl, nofun, fun _ _ => rfl⟩

theorem test_met_QuietTimeEndsInRun :
    ((quiet 5000 .active).supplied = true ∧ (quiet 5000 .active).ctl.mode = .quiet ∧ (quiet 5000 .active).modeInv ∧
      (quiet 5000 .active).linkInv ∧ (quiet 5000 .active).reached 5000 = true ∧ (quiet 5000 .active).link.mode = .active) ∧
    ((quiet 5001 .active).modeInv ∧ (quiet 5001 .active).linkInv ∧ (quiet 5001 .active).reached 5001 = false) ∧
    ((quiet 5000 .muted).modeInv ∧ (quiet 5000 .muted).linkInv ∧ (quiet 5000 .muted).link.mode = .muted) :=
  ⟨⟨rfl, rfl, quiet_modeInv _ _, quiet_linkInv _ _, by decide, rfl⟩, ⟨quiet_modeInv _ _, quiet_linkInv _ _, by decide⟩,
    quiet_modeInv _ _, quiet_linkInv _ _, rfl⟩

theorem test_met_HaltAndRestartByMode :
    ((inMode .loading).free ∧ (inMode .loading).ctl.mode = .loading) ∧
    ((inMode .halted).free ∧ (inMode .halted).ctl.mode = .halted) ∧
    (driven.free ∧ driven.ctl.mode = .run ∧ driven.seq.active.isSome = true) ∧
    ((inMode .quiet).free ∧ (inMode .quiet).ctl.mode = .quiet ∧ (inMode .quiet).seq.active = none ∧
      (inMode .quiet).seq.queue = []) ∧
    (base.free ∧ base.ctl.mode = .run ∧ base.seq.active = none ∧ base.seq.queue = []) := by
  unfold State.free; decide

/-- An orderly stop with a frame still waiting, and one made for a RESTART. -/
def stopWith (l : List Frame) (why : StopReason) (stage : TxStage) : State :=
  { stopping stage with
    link := { (stopping stage).link with txList := l }, ctl := { (stopping stage).ctl with stopping := some why } }

theorem test_met_StopFramesGoOneByOne :
    (let s := stopWith [⟨3, 3, .drop 2⟩] .halt (.sending 5000000);
      s.supplied = true ∧ s.ctl.mode = .run ∧ s.ctl.stopping.isSome = true ∧ s.port.waiting = none ∧
        s.link.stage = .sending 5000000 ∧ s.link.txList = ⟨3, 3, .drop 2⟩ :: []) ∧
    (let s := stopWith [] .halt (.echoWait 5000000);
      s.supplied = true ∧ s.ctl.mode = .run ∧ s.ctl.stopping = some .halt ∧ s.port.waiting = none ∧
        s.link.stage = .echoWait 5000000 ∧ s.port.inHand = some ⟨8, .halt⟩ ∧ Attempt.sent ≠ .lost) ∧
    (let s := stopWith [] .restart (.echoWait 4999800);
      s.supplied = true ∧ s.ctl.mode = .run ∧ s.ctl.stopping = some .restart ∧ s.port.waiting = none ∧
        s.link.stage = .echoWait 4999800 ∧ 4999800 + 200 ≤ s.micros ∧ s.link.txList = []) ∧
    (let s := stopWith [] .halt (.deferring none);
      s.supplied = true ∧ s.ctl.mode = .run ∧ s.ctl.stopping.isSome = true ∧ s.port.waiting = none ∧
        s.link.inHand = some ⟨⟨3, 3, .bulletin 7 1 0 []⟩, 0, true, 4990000⟩ ∧ s.link.stage = .deferring none ∧
        4990000 + 5000 ≤ s.micros) := by
  decide

/-- A request waiting behind the block being stored, and behind a stop. -/
def storingWaiting : State := { storing with port := { storing.port with waiting := some ⟨9, .readStatus⟩ } }
def stoppingWaiting : State :=
  { stopping (.sending 5000000) with port := { (stopping .idle).port with waiting := some ⟨9, .readStatus⟩ } }

theorem test_met_WaitingRequestIsTakenNext :
    (storingWaiting.supplied = true ∧ storingWaiting.port.inHand.isSome = true ∧
      storingWaiting.port.waiting = some ⟨9, .readStatus⟩ ∧ Sendable .readStatus ∧
      exec .configBlockStored { storingWaiting with port := { storingWaiting.port with waiting := none } } =
        .next (after .configBlockStored storing) ∧ (after .configBlockStored storing).port.inHand = none) ∧
    (stoppingWaiting.supplied = true ∧ stoppingWaiting.port.inHand.isSome = true ∧
      stoppingWaiting.port.waiting = some ⟨9, .readStatus⟩ ∧
      exec (.stopFrameOutcome .collided) { stoppingWaiting with port := { stoppingWaiting.port with waiting := none } } =
        .next (after (.stopFrameOutcome .collided) (stopping (.sending 5000000))) ∧
      (after (.stopFrameOutcome .collided) (stopping (.sending 5000000))).port.inHand = none) :=
  ⟨⟨rfl, rfl, rfl, trivial, rfl, by decide⟩, rfl, rfl, rfl, rfl, by decide⟩

theorem test_met_ConfigBlocksAreStoredWhole :
    (base.free ∧ base.ctl.mode ≠ .halted ∧ ([0] : List Byte).length ≠ 64 ∧ (List.replicate 64 (0 : Byte)).length = 64) ∧
    ((inMode .halted).free ∧ (inMode .halted).ctl.mode = .halted ∧ (65 : Nat) % 64 ≠ 0 ∧ 16320 < 16384 ∧ 16320 % 64 = 0) ∧
    (storing.storeInv ∧ storing.supplied = true ∧
      storing.ctl.blockWrite = some ⟨64, List.replicate 64 0x5A⟩ ∧
      storing.port.inHand = some ⟨8, .writeConfig 64 (List.replicate 64 0x5A)⟩ ∧ storing.port.waiting = none) ∧
    exec .supplyFailure storing = .next (after .supplyFailure storing) ∧
    exec (.restart 1) base = .next (after (.restart 1) base) ∧
    (base.ctl.blockWrite = none ∧ exec .powerOn base = .next (after .powerOn base)) := by
  refine ⟨⟨⟨rfl, rfl⟩, by decide, by decide, by simp⟩, ⟨⟨rfl, rfl⟩, rfl, by decide, by decide, by decide⟩,
    ⟨storing_storeInv, rfl, rfl, rfl, rfl⟩, rfl, rfl, rfl, rfl⟩

theorem test_met_ModesRefuseRequests :
    (base.free ∧ Sendable (.writeConfig 0 (List.replicate 64 0)) ∧ base.ctl.mode ≠ .halted) ∧
    ((inMode .loading).free ∧ Sendable .readEvent ∧ Request.readEvent ≠ .readStatus ∧ Request.readEvent ≠ .restart ∧
      (∀ offset data, Request.readEvent ≠ .writeConfig offset data) ∧ (∀ type, Request.readEvent ≠ .unknown type) ∧
      (inMode .loading).ctl.mode = .loading ∧ (inMode .halted).free ∧ (inMode .halted).ctl.mode = .halted) ∧
    ((inMode .quiet).free ∧ (inMode .quiet).ctl.mode = .quiet ∧ (inMode .quiet).seq.active = none ∧
      (inMode .quiet).seq.queue = []) :=
  ⟨⟨⟨rfl, rfl⟩, by simp [Sendable], by decide⟩,
    ⟨⟨rfl, rfl⟩, trivial, nofun, nofun, nofun, nofun, rfl, ⟨rfl, rfl⟩, rfl⟩, ⟨rfl, rfl⟩, rfl, rfl, rfl⟩

/-- `base` with a request in hand and another waiting. -/
def busy (w : Option Tagged) : State := { base with port := { base.port with inHand := some ⟨8, .halt⟩, waiting := w } }

theorem test_met_RequestsWaitOrAreTurnedAway :
    ((busy none).supplied = true ∧ (busy none).port.inHand = some ⟨8, .halt⟩ ∧ Sendable .readStatus ∧
      (busy none).port.waiting = none ∧ (busy (some ⟨9, .readStatus⟩)).port.waiting = some ⟨9, .readStatus⟩) ∧
    ((([0, 5, 1, 1, 1] : List Byte).length < 6) ∧
      dec16 (([0, 7, 1, 0, 0, 0] : List Byte).getD 0 0) (([0, 7, 1, 0, 0, 0] : List Byte).getD 1 0) ≠ 6 ∧
      crcGood [0, 6, 1, 0, 0, 0] = false) ∧
    ((([0] : List Byte).length < 2) ∧ 2 < dec16 (([0, 3] : List Byte).getD 0 0) (([0, 3] : List Byte).getD 1 0)) ∧
    (base.free ∧ knownRequestType 0x32 = false) :=
  ⟨⟨rfl, rfl, trivial, rfl, rfl⟩, ⟨by decide, by decide, by decide +kernel⟩, ⟨by decide, by decide⟩, ⟨rfl, rfl⟩, by decide⟩

/-- A whole HALT, a record whose length is 0, a whole record of an unknown type, and the first bytes of another. -/
def manyRecords : List (List Byte) := [recordBytes 0x03 7 [], [0, 0], recordBytes 0x32 8 [1, 2]]

theorem test_met_RequestsWaitOrAreTurnedAway_run :
    ((commandOf 7 (.check 302 2)).wellFormed = true ∧ recordBytes 0x13 7 (requestFields (.check 302 2)) =
      sealCrc [0, 9, 0x13, 7, 1, 46, 2]) ∧
    ((0x32 : Nat) < 256 ∧ knownRequestType 0x32 = false ∧ ([1, 2] : List Byte).length ≤ 65529) ∧
    (∀ r ∈ manyRecords, r.length = max 2 (dec16 (r.getD 0 0) (r.getD 1 0))) ∧
    ([0, 6, 1] : List Byte).length < dec16 (([0, 6, 1] : List Byte).getD 0 0) (([0, 6, 1] : List Byte).getD 1 0) ∧
    completedRecords 40 (manyRecords.flatten ++ [0, 6, 1]) = manyRecords := by decide +kernel

/-- Records with a good check whose length is not their type's: READ_STATUS of 7, CANCEL and READ_NODE of 6, READ_POINT of 7,
CHECK of 10, OPERATE of 9, WRITE_CONFIG of 8, a PROGRAM of one step that says it has two. -/
def wrongLengths : List (List Byte) :=
  [[0, 7, 0x01, 1, 0], [0, 6, 0x12, 1], [0, 6, 0x21, 1], [0, 7, 0x20, 1, 0], [0, 10, 0x13, 1, 1, 45, 1, 1],
    [0, 9, 0x10, 1, 1, 1, 45], [0, 8, 0x04, 1, 0, 0], [0, 11, 0x11, 1, 1, 2, 1, 45, 1]].map sealCrc

theorem test_met_RequestsWaitOrAreTurnedAway_length :
    (wrongLengths.all fun r => crcGood r && dec16 (r.getD 0 0) (r.getD 1 0) == r.length) = true ∧
    wrongLengths.map (fun r => ((r.getD 2 0).toNat, r.length)) =
      [(0x01, 7), (0x12, 6), (0x21, 6), (0x20, 7), (0x13, 10), (0x10, 9), (0x04, 8), (0x11, 11)] ∧
    (wrongLengths.getD 7 []).getD 5 0 = 2 ∧ 11 ≠ 8 + 3 * 2 ∧
    (wrongLengths.all fun r => parseRecord r == none) = true := by decide +kernel

theorem test_met_ReadStatusReports : base.free := ⟨rfl, rfl⟩

theorem test_met_EventsCaptureAndAlert :
    (base.free ∧ base.ctl.mode = .run ∧ base.port.events = [] ∧ base.port.capture = none) ∧
    ((after .runTimeExpiry (driven.setMicros 5100000)).free ∧
      (after .runTimeExpiry (driven.setMicros 5100000)).ctl.mode = .run ∧
      (after .runTimeExpiry (driven.setMicros 5100000)).port.events =
        ⟨5100, .fault 302 .travelTimeout⟩ :: [⟨5100, .switchSuspect 302⟩] ∧
      (after .runTimeExpiry (driven.setMicros 5100000)).port.capture =
        some ⟨.travelTimeout, 5100, 302, 9, 1, some .driving, some .opened, some ⟨false, false⟩, [2]⟩) ∧
    (List.replicate 31 (startEvent 0 .powerOn)).length < 32 ∧ 32 ≤ (List.replicate 32 (startEvent 0 .powerOn)).length := by
  unfold State.free; decide

theorem test_met_ReadPointReports :
    base.free ∧ base.ctl.mode = .run ∧ base.entry? 999 = none ∧
    base.entry? 302 = some ⟨302, .breaker, 3, some .opened, false, .held⟩ ∧ base.unit = 3 ∧
    base.entry? 201 = some ⟨201, .breaker, 2, some .opened, false, .held⟩ ∧ base.peer? 2 = some ⟨2, .good, 40, 1, 6000, false⟩ := by
  unfold State.free; decide

theorem test_met_QualityIsDerived :
    base.unit = 3 ∧ base.peer? 2 = some ⟨2, .good, 40, 1, 6000, false⟩ ∧ base.reached 6000 = false ∧
    (base.setMicros 6000000).reached 6000 = true ∧ (base.peer? 5).map (·.status) = some .never ∧
    ((base.mapPeer 2 fun p => { p with status := .stale }).peer? 2).map (·.status) = some .stale ∧
    ((base.mapPeer 2 fun p => { p with status := .withdrawn }).peer? 2).map (·.status) = some .withdrawn := by
  decide

theorem test_met_ReadNodeShowsTheColour :
    base.free ∧ base.ctl.mode = .run ∧ base.ctl.model.highNode < 5 ∧ 4 ≤ base.ctl.model.highNode ∧
    0 ≤ base.ctl.model.highNode := by
  unfold State.free; decide

theorem test_met_ReadClaimsRanksEntries :
    driven.free ∧ driven.ctl.mode = .run ∧ driven.claims.zones[1]? = some ⟨2, .held 5200, []⟩ ∧
    driven.claims.zones.map driven.zoneReply = [⟨1, .idle, []⟩, ⟨2, .held, []⟩] := by
  unfold State.free; decide

/-- `base` with voltage on node 1, 301 and 302 CLOSED and node 3 earthed, or some of that. -/
def live : State := withValue 310 .present base
def liveTo2 : State := withValue 301 .closed live
def clash : State := withValue 305 .closed (withValue 302 .closed liveTo2)

theorem test_met_CertainIsPossibleAndFavourableIsSure :
    2 ∈ (clash.colouring .plain none).liveCertain ∧ 2 ∈ (clash.colouring .plain none).earthCertain ∧
    Reading.openFavourable ≠ .plain := by
  decide

/-- The classes and the islands say something: an entry whose prospect is forced and one whose is not, each class, and an end
with something behind it beside one that stands alone. -/
theorem test_met_CertainIsPossibleAndFavourableIsSure_clauses :
    (base.entry? 302 = some ⟨302, .breaker, 3, some .opened, false, .held⟩ ∧
      base.switchClass .plain (some ⟨302, .closed⟩) 302 = .cc ∧ base.switchClass .plain (some ⟨301, .closed⟩) 302 = .co) ∧
    (let s := withValue 302 .travel base;
      s.switchClass .plain none 302 = .un ∧ s.switchClass .closedFavourable none 302 = .cc ∧
        s.switchClass .openFavourable none 302 = .co) ∧
    (base.voltageClass .plain 310 = .va ∧ live.voltageClass .plain 310 = .vp ∧
      (withValue 310 .bad base).voltageClass .plain 310 = .vu ∧
      (withValue 310 .bad base).voltageClass .openFavourable 310 = .va) ∧
    (clash.colouring .plain none).isolated 302 2 = false ∧ (clash.colouring .plain none).isolated 201 4 = true ∧
    (clash.colouring .plain none).bridged 302 2 3 = false ∧
    (clash.colouring .plain (some ⟨305, .closed⟩)).region ⟨305, .earthing, 3, 3, 0⟩ = [1, 2, 3] := by
  decide

theorem test_met_ChecksStopAtTheFirstFailure :
    (base.free ∧ base.ctl.mode = .run ∧ base.ctl.model.point? 999 = none) ∧
    (base.ctl.model.point? 201 = some ⟨201, .breaker, 2, 3, 4⟩ ∧ base.unit ≠ 2) ∧
    (base.ctl.model.point? 301 = some ⟨301, .disconnector, 3, 1, 2⟩ ∧ base.unit = 3 ∧ PointKind.disconnector.isSwitch = true ∧
      (3 : Nat) ≠ 1 ∧ (3 : Nat) ≠ 2) ∧
    ((base.mapEntry 301 fun e => { e with suspect := true }).entry? 301 =
      some ⟨301, .disconnector, 3, some .opened, true, .held⟩) ∧
    ((withValue 301 .travel base).entry? 301 = some ⟨301, .disconnector, 3, some .travel, false, .held⟩) ∧
    (base.entry? 301 = some ⟨301, .disconnector, 3, some .opened, false, .held⟩ ∧ Target.opened.value = .opened) := by
  unfold State.free; decide

/-- The extra condition of 301's close, met in `base` and failed on a sure value where 201 is CLOSED. -/
theorem test_met_ChecksStopAtTheFirstFailure_condition :
    (withValue 201 .closed base).ctl.model.local? 301 = some ⟨301, 1, 1, 15000, 1000, [⟨201, .opened⟩], []⟩ ∧
    ([⟨201, .opened⟩] : List Condition)[0]? = some ⟨201, .opened⟩ ∧
    ¬ (withValue 201 .closed base).meets ⟨201, .opened⟩ ∧ (withValue 201 .closed base).judgesSurely ⟨201, .opened⟩ ∧
    base.meets ⟨201, .opened⟩ := by
  refine ⟨by decide, rfl, ?_, ⟨_, rfl, by decide, by decide⟩, ⟨_, rfl, by decide, by decide, by decide⟩⟩
  rintro ⟨e, he, -, hv, -⟩
  cases he
  exact absurd hv (by decide)

theorem test_met_ElectricalChecksDecide :
    (base.ctl.model.point? 301 = some ⟨301, .disconnector, 3, 1, 2⟩ ∧ base.evaluate 301 .closed = .permit false) ∧
    (base.ctl.model.point? 305 = some ⟨305, .earthing, 3, 3, 0⟩ ∧ base.evaluate 305 .closed = .permit false) ∧
    (withValue 301 .opened clash).evaluate 301 .closed = .refuse ⟨.notIsolated, 0, 0, 0, .certain⟩ ∧
    (withValue 305 .opened clash).evaluate 305 .closed = .refuse ⟨.nodeNotDead, 0, 0, 3, .certain⟩ ∧
    (withValue 302 .opened clash).evaluate 302 .closed = .refuse ⟨.clashRisk, 0, 0, 1, .certain⟩ := by
  decide

/-- The first checks and the conditions pass where a kind rule or the clash check then refuses, and where all pass. -/
theorem test_met_ElectricalChecksDecide_clauses :
    (base.entry? 301 = some ⟨301, .disconnector, 3, some .opened, false, .held⟩ ∧
      base.ctl.model.local? 301 = some ⟨301, 1, 1, 15000, 1000, [⟨201, .opened⟩], []⟩ ∧ base.meets ⟨201, .opened⟩ ∧
      (base.colouring .plain none).isolated 301 1 = true) ∧
    (let s := withValue 301 .opened clash;
      s.entry? 301 = some ⟨301, .disconnector, 3, some .opened, false, .held⟩ ∧ s.meets ⟨201, .opened⟩ ∧
        (s.colouring .plain none).bridged 301 1 2 = false ∧ (s.colouring .plain none).isolated 301 1 = false ∧
        (s.colouring .plain none).isolated 301 2 = false) ∧
    (let s := withValue 305 .opened clash;
      s.entry? 305 = some ⟨305, .earthing, 3, some .opened, false, .held⟩ ∧
        s.ctl.model.local? 305 = some ⟨305, 3, 3, 10000, 1000, [], []⟩ ∧ (s.colouring .plain none).live 3 ≠ .no) ∧
    (let s := withValue 302 .opened clash;
      s.entry? 302 = some ⟨302, .breaker, 3, some .opened, false, .held⟩ ∧
        1 ∈ (s.colouring .plain (some ⟨302, .closed⟩)).region ⟨302, .breaker, 3, 2, 3⟩ ∧
        (s.colouring .plain (some ⟨302, .closed⟩)).live 1 ≠ .no ∧
        (s.colouring .plain (some ⟨302, .closed⟩)).earthed 1 ≠ .no) :=
  ⟨⟨by decide, by decide, ⟨_, rfl, by decide, by decide, by decide⟩, by decide⟩,
    ⟨by decide, ⟨_, rfl, by decide, by decide, by decide⟩, by decide, by decide, by decide⟩, by decide, by decide⟩

/-- `base` with so many programs queued behind the active one. -/
def queued (n : Nat) : State :=
  { withProg .claiming .waiting with
    seq := ⟨(List.range n).map fun i => newProgram (20 + i) 1 [⟨302, .closed⟩] [2], some (prog .claiming), 30⟩ }

theorem test_met_ProgramsAreAdmitted :
    (base.free ∧ base.ctl.mode = .run ∧ base.ctl.model.isLocalSwitch 302 = true ∧ base.ctl.model.isLocalSwitch 310 = false ∧
      base.bay.selectorState = .remote ∧ base.link.mode = .active ∧ base.seq.queue.length < 4 ∧ base.newHandle ≤ 255) ∧
    (3 < (4 : Nat) ∧ ([] : List StepField).length = 0 ∧ 8 < (List.replicate 9 (⟨302, 2⟩ : StepField)).length ∧
      (List.replicate 8 (⟨302, 2⟩ : StepField)).length ≤ 8 ∧ ((1 : Nat) = 1 ∨ (1 : Nat) = 2) ∧ (2 : Nat) ≠ 1) ∧
    ({ base with bay := { base.bay with selector := ⟨none, none⟩ } } : State).bay.selectorState ≠ .remote ∧
    ({ base with link := { base.link with mode := .muted } } : State).link.mode = .muted ∧
    ((queued 4).free ∧ (queued 4).ctl.mode = .run ∧ 4 ≤ (queued 4).seq.queue.length ∧ (queued 3).seq.queue.length < 4) := by
  unfold State.free; decide

theorem test_met_ProgramsAreAdmitted_model :
    (yard.points.map (·.id)).Nodup ∧ yard.required 302 = [2] ∧ yard.required 301 = [1, 2] ∧ yard.required 305 = [] ∧
      yard.required 310 = [] := by decide

theorem test_met_HandlesAreFree : base.programInv := base_programInv

theorem test_met_NextProgramIsTakenUp :
    ((withProg .claiming .waiting).seq.active.isSome = true ∧ base.seq.queue = []) ∧
    (let s : State := { base with seq := ⟨[newProgram 20 1 [⟨302, .closed⟩] [2]], none, 30⟩ };
      s.seq.active = none ∧ s.seq.queue = newProgram 20 1 [⟨302, .closed⟩] [2] :: [] ∧
        s.evaluate 302 .closed = .permit false) ∧
    (let s : State := { base with seq := ⟨[newProgram 20 1 [⟨305, .closed⟩] []], none, 30⟩ };
      s.seq.active = none ∧ s.running = true ∧ (newProgram 20 1 [⟨305, .closed⟩] []).zones = [] ∧
        s.evaluate 305 .closed = .permit false) ∧
    (withValue 302 .opened clash).evaluate 302 .closed = .refuse ⟨.clashRisk, 0, 0, 1, .certain⟩ := by
  decide

theorem test_met_CancelByState :
    ((queued 1).free ∧ (queued 1).ctl.mode = .run ∧ 0 ∉ (queued 1).handlesInUse ∧ 20 ∈ (queued 1).seq.queue.map (·.handle) ∧
      (queued 1).seq.active = some (prog .claiming) ∧ (prog .claiming).handle ≠ 20 ∧ (prog .claiming).handle = 9 ∧
      (prog .claiming).phase ≠ .driving) ∧
    (driven.free ∧ driven.seq.active = some (prog .driving) ∧ (prog .driving).phase = .driving) := by
  unfold State.free; decide

/-- The step of a program in DRIVING whose drive has ended. -/
def ended (p : Program) (r : DriveReport) : State :=
  { withProg2 .driving with
    seq := ⟨[], some p, 10⟩, bay := { base.bay with report := some r } }

theorem test_met_DriveEndDecidesWhatFollows :
    ((ended (prog .driving) .completed).running = true ∧ (ended (prog .driving) .completed).bay.report = some .completed ∧
      (ended (prog .driving) .completed).seq.active = some (prog .driving) ∧ (prog .driving).phase = .driving ∧
      (prog .driving).steps[(prog .driving).stepIndex - 1]? = some ⟨302, .closed⟩ ∧ 1 ≤ (prog .driving).stepIndex ∧
      (prog .driving).pendingStop = none ∧ (prog .driving).stepIndex = (prog .driving).steps.length) ∧
    (({ prog .driving with pendingStop := some .cancel } : Program).pendingStop = some .cancel ∧
      (ended { prog .driving with pendingStop := some .cancel } (.failed .wrongEnd)).running = true) ∧
    ((ended (prog .driving) (.failed .travelTimeout)).bay.report = some (.failed .travelTimeout)) ∧
    ((ended (prog2 .driving) .completed).running = true ∧ (ended (prog2 .driving) .completed).seq.active = some (prog2 .driving) ∧
      (prog2 .driving).pendingYield = none ∧ (prog2 .driving).steps[(prog2 .driving).stepIndex]? = some ⟨301, .closed⟩ ∧
      (base.withActive { prog2 .driving with stepIndex := 2 }).evaluate 301 .closed = .permit false ∧
      ((withValue 301 .opened clash).withActive { prog2 .driving with stepIndex := 2 }).evaluate 301 .closed =
        .refuse ⟨.notIsolated, 0, 0, 0, .certain⟩ ∧
      ({ prog2 .driving with pendingYield := some ⟨2, 5⟩ } : Program).pendingYield = some ⟨2, 5⟩) := by
  decide

theorem test_met_DeadlinesEndPrograms :
    (let s := (withProg .claiming .waiting).setMicros 14900000;
      s.running = true ∧ s.seq.active = some (prog .claiming) ∧ (prog .claiming).claimStart = some 4900 ∧
        s.reached (4900 + BitVec.ofNat 32 (1000 * s.params.claimPatience)) = true) ∧
    ((withProg .claiming .waiting).setMicros 14899000).reached (4900 + BitVec.ofNat 32 10000) = false ∧
    (let s := withProg (.guard 5000 5000) (.held 5200);
      s.running = true ∧ s.seq.active = some (prog (.guard 5000 5000)) ∧ s.reached 5000 = true ∧ s.reached 5001 = false) ∧
    ((prog .driving).phase.name ≠ .guard ∧ base.running = true ∧ base.seq.active = none) := by
  decide

/-- `base` with zone 2 moved at a clock reading and the one-step program in GUARD. -/
def guarded (moved : Option Time) : State :=
  { withProg (.guard 5000 35000) (.held 5200) with image := { base.image with moves := [⟨1, none⟩, ⟨2, moved⟩] } }

theorem test_met_GuardIsTestedAndVerified :
    ((guarded none).running = true ∧ (guarded none).seq.active = some (prog (.guard 5000 35000)) ∧
      (prog (.guard 5000 35000)).steps[(prog (.guard 5000 35000)).stepIndex - 1]? = some ⟨302, .closed⟩ ∧
      (guarded none).reached 5000 = true ∧ (guarded none).reached 5001 = false ∧
      (guarded none).guardTimes 302 = [] ∧ (guarded (some 4601)).guardTimes 302 = [5001] ∧
      (guarded (some 4600)).guardTimes 302 = [5000]) ∧
    ((guarded none).evaluate 302 .closed = .permit false ∧
      ((guarded none).localPoint? 302).bind (·.value) = some Target.closed.startEnd ∧
      (guarded none).ctl.model.local? 302 = some ⟨302, 2, 2, 200, 300, [], []⟩) ∧
    (let s := withValue 302 .bad (guarded none);
      s.evaluate 302 .closed = .permit false ∧ (s.localPoint? 302).bind (·.value) ≠ some Target.closed.startEnd) ∧
    (withValue 302 .travel (guarded none)).evaluate 302 .closed = .refuse ⟨.switchMoving, 0, 0, 0, .certain⟩ ∧
    ((withValue 302 .closed (guarded none)).evaluate 302 .closed = .permit true ∧
      (prog (.guard 5000 35000)).stepIndex = (prog (.guard 5000 35000)).steps.length) ∧
    (let s := withValue 302 .closed (withProg2 (.guard 5000 35000));
      s.running = true ∧ s.evaluate 302 .closed = .permit true ∧
        (prog2 (.guard 5000 35000)).steps[(prog2 (.guard 5000 35000)).stepIndex]? = some ⟨301, .closed⟩ ∧
        (s.withActive { prog2 (.guard 5000 35000) with stepIndex := 2 }).evaluate 301 .closed = .permit false) ∧
    ((base.image.moves.map (·.zone)).Nodup ∧ (∀ m ∈ base.image.moves, m.zone ≠ 3)) := by
  decide

/-- `base` with a pending selector reading, its filter timer at the end at clock 5 000. -/
def turning (r : Selector) (s : State) : State := { s with bay := { s.bay with selector := ⟨some .remote, some (r, 4980)⟩ } }

theorem test_met_SelectorTurnsTakePrograms :
    ((turning .atBay base).working = true ∧ (turning .atBay base).bay.selector.pending = some (.atBay, 4980) ∧
      (turning .atBay base).reached (4980 + BitVec.ofNat 32 20) = true ∧
      (turning .atBay base).reached (4981 + BitVec.ofNat 32 20) = false ∧ (turning .atBay base).running = true ∧
      Selector.atBay ≠ (turning .atBay base).bay.selectorState ∧ (turning .atBay base).seq.active = none ∧
      Selector.remote = (turning .remote base).bay.selectorState) ∧
    ((turning .atBay (inMode .quiet)).working = true ∧ (turning .atBay (inMode .quiet)).running = false) ∧
    ((turning .atBay driven).seq.active = some (prog .driving) ∧ (turning .atBay driven).running = true) ∧
    ((turning .atBay (withProg .claiming .waiting)).seq.active = some (prog .claiming) ∧ (prog .claiming).phase ≠ .driving) := by
  decide

theorem test_met_RawLineFormsAReading :
    ((Line.contactOpen 1).wellFormed = true ∧ (Line.contactOpen 24).wellFormed = true ∧
      base.bay.lines.level (.contactOpen 1) = false ∧ base.bay.lines.level (.contactOpen 1) ≠ true ∧
      (Line.contactClosed 1).wellFormed = true ∧ Line.contactClosed 1 ≠ .contactOpen 1) ∧
    (base.working = true ∧ (inMode .halted).working = false ∧ Line.contactOpen 1 ≠ .selRemote ∧ Line.contactOpen 1 ≠ .selLocal ∧
      base.ctl.model.fedBy (.contactOpen 1) = some 301 ∧ base.ctl.model.fedBy (.contactOpen 24) = none) ∧
    (PointKind.breaker.isSwitch = true) := by
  decide

theorem test_met_RawLineFormsAReading_settings :
    (base.ctl.model.point? 302 = some ⟨302, .breaker, 3, 2, 3⟩ ∧
      base.ctl.model.local? 302 = some ⟨302, 2, 2, 200, 300, [], []⟩) ∧
    (base.ctl.model.points.map (·.id)).Nodup ∧ (base.ctl.model.locals.map (·.point)).Nodup ∧
    (∀ d ∈ base.ctl.model.locals, ∀ e ∈ base.ctl.model.locals,
      (∃ p ∈ base.ctl.model.points, p.id = d.point ∧ p.kind.isSwitch = true ∧ d.input = 2) →
      (∃ p ∈ base.ctl.model.points, p.id = e.point ∧ p.kind.isSwitch = true ∧ e.input = 2) → d = e) ∧
    base.ctl.model.fedBy (.contactClosed 2) = some 302 := by decide

/-- A local point of `base` with a pending reading, its filter timer at the end at clock 5 000. -/
def pendingAt (id : Nat) (r : PointValue) (s : State) : State :=
  s.mapPoint id fun p => { p with pending := some ⟨r, 4980⟩ }

theorem test_met_UndrivenChangeIsHandled :
    ((pendingAt 301 .travel base).working = true ∧
      (pendingAt 301 .travel base).localPoint? 301 = some ⟨301, some .opened, some ⟨.travel, 4980⟩, false, none, none⟩ ∧
      (pendingAt 301 .travel base).reached (4980 + BitVec.ofNat 32 20) = true ∧
      (pendingAt 301 .travel base).reached (4981 + BitVec.ofNat 32 20) = false ∧
      base.ctl.model.isSwitch 301 = true ∧ base.ctl.model.isSwitch 310 = false) ∧
    (∀ d, (pendingAt 301 .travel base).bay.drive = some d → d.switch ≠ 301) ∧
    (pendingAt 310 .present base).localPoint? 310 = some ⟨310, some .absent, some ⟨.present, 4980⟩, false, none, none⟩ :=
  ⟨by decide, nofun, by decide⟩

theorem test_met_DriveIsSupervised :
    (let s := pendingAt 302 .closed driven;
      s.working = true ∧ s.bay.drive = some drive ∧ s.ctl.model.isSwitch drive.switch = true ∧
        s.localPoint? drive.switch = some ⟨302, some .opened, some ⟨.closed, 4980⟩, false, none, none⟩ ∧
        s.reached (4980 + BitVec.ofNat 32 s.params.filterTime) = true) ∧
    (PointValue.closed = drive.direction.value ∧ PointValue.opened = drive.direction.startEnd ∧ drive.leftStart = false ∧
      PointValue.travel ≠ drive.direction.value ∧ PointValue.travel ≠ .bad ∧ PointValue.travel ≠ drive.direction.startEnd ∧
      ({ drive with leftStart := true } : DriveRecord).leftStart = true) := by
  decide

theorem test_met_RunAndStuckTimersFail :
    (base.working = true ∧ base.bay.drive = none ∧ base.localPoint? 301 = some ⟨301, some .opened, none, false, none, none⟩) ∧
    ((driven.setMicros 5100000).working = true ∧ (driven.setMicros 5100000).bay.drive = some drive ∧
      (driven.setMicros 5100000).reached drive.expiry = true ∧ (driven.setMicros 5099999).reached drive.expiry = false) ∧
    ((base.mapPoint 301 fun p => { p with stuck := some 5000 }).localPoint? 301 =
        some ⟨301, some .opened, none, false, none, some 5000⟩ ∧ base.reached 5000 = true ∧ base.reached 5001 = false) := by
  decide

theorem test_met_SwitchFaultIsCleared :
    (base.free ∧ base.ctl.mode = .run ∧ base.ctl.model.point? 999 = none ∧
      base.ctl.model.point? 310 = some ⟨310, .voltage, 3, 1, 0⟩ ∧ PointKind.voltage.isSwitch = false) ∧
    (base.ctl.model.isLocalSwitch 302 = true ∧ base.localPoint? 302 = some ⟨302, some .opened, none, false, none, none⟩) ∧
    ((withValue 302 .travel base).localPoint? 302 = some ⟨302, some .travel, none, false, none, none⟩) ∧
    ((base.markSuspect 302).localPoint? 302 = some ⟨302, some .opened, none, true, none, none⟩) := by
  unfold State.free; decide

theorem test_met_LocalUpdateIsOneChange :
    (base.localPoint? 302 = some (at0 302 .opened) ∧ base.entry? 302 = some ⟨302, .breaker, 3, some .opened, false, .held⟩ ∧
      (at0 302 .opened).value = some .opened) ∧
    (let s := base.mapPoint 302 fun p => { p with value := some .closed };
      s.localPoint? 302 = some (at0 302 .closed) ∧ s.entry? 302 = some ⟨302, .breaker, 3, some .opened, false, .held⟩ ∧
        s.pub.stateNo = some 7 ∧ s.running = true ∧ s.link.mode = .active) ∧
    ((inMode .quiet).running = false ∧ State.reset.pub.stateNo = none) := by
  decide

theorem test_met_BulletinFallsDue :
    (base.running = true ∧ base.pub.stage = .due 5100 ∧ base.reached 5100 = false ∧ base.pub.stateNo = some 7) ∧
    ((base.setMicros 5100000).running = true ∧ (base.setMicros 5100000).reached 5100 = true) ∧
    (∀ t, (stopping .idle).pub.stage ≠ .due t) :=
  ⟨by decide, by decide, nofun⟩

/-- `base` with unit 2's record in a status. -/
def peer2 (st : PeerStatus) : State := base.mapPeer 2 fun p => { p with status := st }

theorem test_met_BulletinIsTaken :
    (base.hears 2 3 ∧ (List.replicate 24 (⟨201, 1, 0⟩ : Item)).length ≤ 24 ∧
      base.peer? 2 = some ⟨2, .good, 40, 1, 6000, false⟩) ∧
    (32768 ≤ ((32808 : StateNo) - 40).toNat ∧ ((32807 : StateNo) - 40).toNat < 32768 ∧ ((40 : StateNo) - 40).toNat < 32768) ∧
    ((peer2 .stale).hears 2 3 ∧ (peer2 .stale).peer? 2 = some ⟨2, .stale, 40, 1, 6000, false⟩ ∧ PeerStatus.stale ≠ .good) ∧
    (peer2 .withdrawn).peer? 2 = some ⟨2, .withdrawn, 40, 1, 6000, false⟩ := by
  unfold State.hears; decide

theorem test_met_FramesAreSifted :
    ((inMode .halted).receiving = false ∧ ({ base with link := { base.link with rxEcho := true } } : State).isEcho = true ∧
      (48 : Nat) < 49) ∧
    ((⟨3, 3, .drop 1⟩ : Frame).wellFormed = true ∧ base.receiving = true ∧ base.isEcho = false ∧ base.unit = 3 ∧
      base.link.dup = false ∧ ({ base with link := { base.link with dup := true } } : State).link.dup = true) ∧
    ((⟨48, 4, .drop 1⟩ : Frame).wellFormed = true ∧ (48 : Nat) ≠ base.unit ∧ (4 : Nat) ≠ base.ctl.model.revision ∧
      base.peer? 48 = some ⟨48, .never, 0, 0, 0, false⟩ ∧
      (base.mapPeer 48 fun p => { p with mismatch := true }).peer? 48 = some ⟨48, .never, 0, 0, 0, true⟩) ∧
    (([0x23, 2, 0, 3, 2, 1, 0, 0] : List Byte).length ≠ 2 + 7 ∧ (0x25 : Nat) ∉ [0x01, 0x21, 0x22, 0x23, 0x24] ∧
      ([1, 2, 3, 4, 0, 6] : List Byte).length < 7) := by
  decide

/-- Frames with a good check whose body length is not their type's: an ASK of 4, a HOLD of 6, a DROP of 2, a YIELD_REQUEST of
1, a bulletin of one item that carries none, and one of 25 items. -/
def wrongBodies : List (List Byte) :=
  [[0x21, 2, 0, 3, 4, 1, 1, 0, 0], [0x22, 2, 0, 3, 6, 1, 1, 0, 0, 0, 0], [0x23, 2, 0, 3, 2, 1, 1], [0x24, 2, 0, 3, 1, 1],
    [0x01, 2, 0, 3, 6, 0, 1, 0, 0, 9, 1], [0x01, 2, 0, 3, 106, 0, 1, 0, 0, 9, 25] ++ List.replicate 100 1].map sealCrc

theorem test_met_FramesAreSifted_length :
    (wrongBodies.all fun b => (b.getD 4 0).toNat + 7 == b.length && parseFrame b == none) = true ∧
    wrongBodies.map (fun b => ((b.getD 0 0).toNat, (b.getD 4 0).toNat)) =
      [(0x21, 4), (0x22, 6), (0x23, 2), (0x24, 1), (0x01, 6), (0x01, 106)] ∧
    (6 : Nat) ≠ 6 + 4 * 1 ∧ (106 : Nat) = 6 + 4 * 25 ∧ (24 : Nat) < 25 := by decide +kernel

theorem test_met_FramesAreSifted_crc : crcGood [0x23, 2, 0, 3, 1, 1, 0, 0] = false := by decide +kernel

theorem test_met_PeersExpireAndTimesLapse :
    (base.working = true ∧ base.peer? 2 = some ⟨2, .good, 40, 1, 6000, false⟩ ∧ base.reached 6000 = false) ∧
    ((base.setMicros 6000000).working = true ∧ (base.setMicros 6000000).reached 6000 = true) ∧
    (peer2 .stale).peer? 2 = some ⟨2, .stale, 40, 1, 6000, false⟩ := by
  decide

theorem test_met_RankIsATotalOrder :
    (Rank.better ⟨2, 0, 40⟩ ⟨1, 15, 1⟩ = true ∧ Rank.better ⟨1, 15, 1⟩ ⟨1, 15, 2⟩ = true ∧ (1 : Nat) ≠ 2) ∧
    driven.seq.active = some (prog .driving) := by
  decide

/-- Eight live entries of units 11 to 18, of a kind, expiring one after another. -/
def eight (k : EntryKind) : List PeerClaim :=
  (List.range' 1 8).map fun i => ⟨10 + i, k, 1, 0, BitVec.ofNat 32 (6000 + i)⟩

def entryOf (unit : Nat) (k : EntryKind) (urgency : Nat) : PeerClaim := ⟨unit, k, urgency, 0, 9000⟩

theorem test_met_PeerListPolicy :
    ((eight .ask).map (·.unit)).Nodup ∧ ((eight .hold).map (·.unit)).Nodup ∧
    (entryOf 11 .ask 1).unit = 11 ∧ (⟨11, .ask, 1, 0, 6001⟩ : PeerClaim) ∈ eight .ask ∧
    (∀ e ∈ eight .ask, e.unit = (entryOf 2 .ask 1).unit → true = false) ∧
    ((eight .ask).filter fun _ => true).length = 8 ∧ (((eight .ask).take 7).filter fun _ => true).length < 8 ∧
    (∀ a ∈ (eight .ask).filter (·.kind = .ask), a ≠ ⟨18, .ask, 1, 0, 6008⟩ →
      a.rank.better (⟨18, .ask, 1, 0, 6008⟩ : PeerClaim).rank = true) ∧
    (entryOf 2 .ask 1).rank.better (⟨18, .ask, 1, 0, 6008⟩ : PeerClaim).rank = true ∧
    (entryOf 20 .ask 1).rank.better (⟨18, .ask, 1, 0, 6008⟩ : PeerClaim).rank = false ∧
    (eight .hold).filter (·.kind = .ask) = [] ∧ (entryOf 2 .ask 1).kind = .ask ∧ (entryOf 2 .hold 1).kind = .hold ∧
    (∀ a ∈ eight .hold, a ≠ ⟨11, .hold, 1, 0, 6001⟩ → ((6001 : Time) - 5000).toNat < (a.expiry - 5000).toNat) := by
  decide

/-- `base` with a program of an urgency in a phase, zone 2 in a state of its own with peer entries. -/
def claiming (urgency : Nat) (ph : Phase) (own : OwnState) (peers : List PeerClaim) : State :=
  { base with seq := ⟨[], some { prog ph with urgency := urgency }, 10⟩,
              claims := ⟨[⟨1, .idle, []⟩, ⟨2, own, peers⟩], some [2]⟩ }

theorem base_zoneInv : base.zoneInv := by unfold State.zoneInv; decide

theorem claiming_zoneInv (urgency : Nat) (ph : Phase) (own : OwnState) (peers : List PeerClaim) :
    (claiming urgency ph own peers).zoneInv := by
  refine ⟨rfl, by simp [claiming], ?_⟩
  intro c hc
  simp only [claiming, List.mem_cons, List.not_mem_nil, or_false] at hc
  rcases hc with rfl | rfl <;> simp

theorem test_met_AskAndHoldAreHeard :
    base.zoneInv ∧ (∀ urgency ph own peers, (claiming urgency ph own peers).zoneInv) ∧
    (base.hears 2 3 ∧ base.zone? 3 = none ∧ (3 : Nat) < 4 ∧ (15 : Nat) < 16) ∧
    (base.zone? 2 ≠ none ∧ (3 : Nat) ≤ 3 ∧ (15 : Nat) ≤ 15 ∧ base.own 2 = .idle) ∧
    (let s := claiming 2 .claiming (.asking none 5060) [];
      s.hears 2 3 ∧ s.own 2 = .asking none 5060 ∧ (entryOf 2 .ask 2).rank.better s.ownRank = true ∧
        (entryOf 2 .ask 1).rank.better s.ownRank = false ∧ 2 ≤ s.ownUrgency ∧ 1 < s.ownUrgency ∧ s.ownUrgency ≤ 2) ∧
    (let s := claiming 2 .claiming .waiting [⟨2, .hold, 0, 0, 6000⟩];
      s.hears 2 3 ∧ s.own 2 = .waiting ∧ 2 ≤ s.ownUrgency ∧ s.ownUrgency ≤ 3 ∧ s.blocked 2 = true ∧
        ((s.peersOf 2).map (·.unit)).Nodup ∧
        (s.listSet 2 [⟨2, .ask, 1, 0, 5120⟩]).blocked 2 = false ∧
        (s.listSet 2 [⟨2, .ask, 3, 0, 5120⟩]).blocked 2 = true) ∧
    (let s := claiming 1 .claiming (.held 5200) [];
      s.hears 2 3 ∧ s.own 2 = .held 5200 ∧ s.ownRank.better (entryOf 2 .hold 0).rank = true ∧
        s.ownRank.better (entryOf 2 .hold 2).rank = false ∧
        s.seq.active = some { prog .claiming with urgency := 1 } ∧ (prog .claiming).phase ≠ .driving) ∧
    (let s := claiming 1 .driving (.held 5200) [];
      s.hears 2 3 ∧ s.seq.active = some { prog .driving with urgency := 1 } ∧ (prog .driving).clashOffered = false ∧
        ({ prog .driving with clashOffered := true } : Program).clashOffered = true) :=
  ⟨base_zoneInv, claiming_zoneInv, by unfold State.hears; decide⟩

theorem test_met_ReadClaimsRanksEntries_zones :
    base.zoneInv ∧ (⟨1, .idle, []⟩ : ZoneClaim) ∈ base.claims.zones ∧ (∀ c ∈ base.claims.zones, c.zone ≠ 3) ∧
      driven.heldZones = [2] :=
  ⟨base_zoneInv, by decide, by decide, by decide⟩

/-- In WAITING: an ASK in place of the same unit's HOLD, and one that clears an expired entry, prompt the test; one in place of
the same unit's ASK at an equal rank, and one that only adds an entry, do not, though the zone is not blocked. -/
theorem test_met_AskAndHoldAreHeard_prompts :
    let ask := fun (u : Nat) => (⟨u, .ask, 1, 0, 5120⟩ : PeerClaim)
    let s := fun l => claiming 2 .claiming .waiting l
    let enters := fun (l : List PeerClaim) (e : PeerClaim) =>
      ((s l).own 2 = .waiting ∧ (((s l).peersOf 2).map (·.unit)).Nodup) ∧
        ((s l).listSet 2 (enterClaim (s l).now (s l).live l e).1).blocked 2 = false
    (∀ l, (s l).zoneInv) ∧ (s []).hears 2 3 ∧
    (enters [⟨2, .hold, 0, 0, 6000⟩] (ask 2) ∧ (s []).entryPrompts 2 (ask 2) = false ∧
      (s [⟨2, .hold, 0, 0, 6000⟩]).entryPrompts 2 (ask 2) = true) ∧
    (enters [⟨5, .hold, 0, 0, 4000⟩] (ask 2) ∧ (s [⟨5, .hold, 0, 0, 4000⟩]).entryPrompts 2 (ask 2) = true) ∧
    (enters [⟨2, .ask, 1, 0, 6000⟩] (ask 2) ∧ (s [⟨2, .ask, 1, 0, 6000⟩]).entryPrompts 2 (ask 2) = false) ∧
    (enters [⟨5, .ask, 1, 0, 6000⟩] (ask 2) ∧ (s [⟨5, .ask, 1, 0, 6000⟩]).entryPrompts 2 (ask 2) = false) :=
  ⟨claiming_zoneInv 2 .claiming .waiting, by unfold State.hears; decide⟩

theorem test_met_RemovedEntriesFreeTheZone :
    base.zoneInv ∧ (∀ urgency ph own peers, (claiming urgency ph own peers).zoneInv) ∧
    (base.hears 2 3 ∧ base.receiving = true ∧ (∀ e ∈ base.peersOf 2, e.unit ≠ 2)) ∧
    (let s := claiming 1 .claiming .waiting [⟨2, .hold, 0, 0, 5000⟩, ⟨5, .ask, 0, 0, 6000⟩];
      s.hears 2 3 ∧ (∃ e ∈ s.peersOf 2, e.unit = 2 ∧ s.reached e.expiry = true) ∧ s.own 2 = .waiting ∧
        (∀ e ∈ (s.peersOf 2).filter fun e => e.unit ≠ 2, s.reached e.expiry = false →
          e.kind = .ask ∧ e.rank.better s.ownRank = false)) ∧
    (let s := claiming 1 .claiming .waiting [⟨2, .hold, 0, 0, 5001⟩];
      (∀ e ∈ s.peersOf 2, e.unit = 2 → s.reached e.expiry = false)) ∧
    ((claiming 1 .driving (.held 5200) [⟨2, .hold, 0, 0, 5000⟩]).own 2 ≠ .waiting) :=
  ⟨base_zoneInv, claiming_zoneInv, by unfold State.hears; decide⟩

theorem test_met_YieldRequestIsHeard :
    (base.hears 2 3 ∧ (base.own 2).isHeld = false ∧ (3 : Nat) < 4) ∧
    (let s := claiming 1 .claiming (.held 5200) [];
      s.hears 2 3 ∧ (s.own 2).isHeld = true ∧ s.seq.active = some { prog .claiming with urgency := 1 } ∧
        1 ≤ s.ownUrgency ∧ (1 : Nat) < 2) ∧
    (let s := claiming 2 .driving (.held 5200) [];
      s.hears 2 3 ∧ (s.own 2).isHeld = true ∧ s.seq.active = some { prog .driving with urgency := 2 } ∧ (2 : Nat) < 3 ∧
        (prog .driving).phase = .driving) := by
  unfold State.hears; decide

/-- `base` with the two-step program CLAIMING: zone 1 in one state, zone 2 in another. -/
def twoZones (own1 own2 : OwnState) : State :=
  { base with seq := ⟨[], some (prog2 .claiming), 10⟩, claims := ⟨[⟨1, own1, []⟩, ⟨2, own2, []⟩], some [1, 2]⟩ }

theorem test_met_ClaimTimersAct :
    (let s := claiming 1 .claiming (.asking (some 5000) 5030) [];
      s.running = true ∧ s.own 2 = .asking (some 5000) 5030 ∧ s.reached 5000 = true ∧ s.reached 5030 = false) ∧
    (let s := claiming 1 .claiming (.asking none 5000) [⟨2, .hold, 0, 0, 5001⟩];
      s.own 2 = .asking none 5000 ∧ s.reached 5001 = false ∧
        (∃ e ∈ s.peersOf 2, s.reached e.expiry = false ∧ (e.kind = .hold ∨ e.rank.better s.ownRank = true))) ∧
    (let s := claiming 1 .claiming (.asking none 5000) [⟨2, .hold, 0, 0, 5000⟩];
      (∀ e ∈ s.peersOf 2, s.reached e.expiry = false → e.kind = .ask ∧ e.rank.better s.ownRank = false) ∧
        s.seq.active = some { prog .claiming with urgency := 1 } ∧ s.claims.job = some [2] ∧
        (∀ z ∈ [2], z = 2 ∨ (s.own z).isHeld = true)) ∧
    (let s := twoZones (.asking none 5000) .idle;
      s.running = true ∧ s.own 1 = .asking none 5000 ∧ s.claims.job = some ([1] ++ 2 :: []) ∧
        (∀ z ∈ [1], z = 1 ∨ (s.own z).isHeld = true) ∧ (2 : Nat) ≠ 1 ∧ (s.own 2).isHeld = false) ∧
    (let s := claiming 1 (.guard 5000 6000) (.held 5000) [];
      s.running = true ∧ s.own 2 = .held 5000 ∧ s.reached 5000 = true ∧ s.reached 5001 = false) := by
  decide

theorem test_met_OfferTakesItsSlot :
    ((inMode .quiet).running = false ∧ ({ base with link := { base.link with mode := .muted } } : State).link.mode = .muted) ∧
    (base.running = true ∧ base.link.mode = .active ∧ base.link.stage = .idle ∧ base.link.txList = [] ∧
      (∀ g ∈ base.link.txList, g.body.slot ≠ 2)) ∧
    (let s : State := { sending (.drop 1) 0 (.sending 5000001) base with
        link := { (sending (.drop 1) 0 (.sending 5000001) base).link with
          txList := [⟨3, 3, .drop 1⟩] ++ ⟨3, 3, .hold 2 1 0 1500⟩ :: [] } };
      s.running = true ∧ s.link.stage ≠ .idle ∧ s.link.txList = [⟨3, 3, .drop 1⟩] ++ ⟨3, 3, .hold 2 1 0 1500⟩ :: [] ∧
        (⟨3, 3, .hold 2 1 0 1500⟩ : Frame).body.slot = (FrameBody.drop 2).slot ∧
        (∀ x ∈ [(⟨3, 3, .drop 1⟩ : Frame)] ++ [], x.body.slot ≠ (FrameBody.drop 2).slot)) := by
  decide

theorem test_met_SpellsOfIdleMedium :
    (base.link.mediumBusy = false ∧ (∀ since, base.link.stage ≠ .deferring since) ∧
      ({ base with link := { base.link with mediumBusy := true } } : State).link.mediumBusy = true) ∧
    (let s := sending (.drop 1) 0 (.deferring (some 4999990)) base;
      s.supplied = true ∧ s.ctl.mode = .run ∧ s.link.inHand = some ⟨⟨3, 3, .drop 1⟩, 0, true, 4990000⟩ ∧
        s.link.stage = .deferring (some 4999990) ∧ 4999990 + 10 ≤ s.micros ∧ s.micros < 4999991 + 10) ∧
    (let s := sending (.drop 1) 1 (.deferring none) base;
      s.link.stage = .deferring none ∧ s.link.mediumBusy = false ∧ s.micros < 4999251 + 750 ∧ 4999250 + 750 ≤ s.micros) :=
  ⟨⟨rfl, nofun, rfl⟩, by decide, by decide⟩

theorem test_met_MatchedEchoEndsTheAttempt :
    (let s := sending (.bulletin 7 1 66 []) 0 (.echoWait 4999999) base;
      s.running = true ∧ s.link.inHand = some ⟨⟨3, 3, .bulletin 7 1 66 []⟩, 0, true, 4990000⟩ ∧
        s.link.stage = .echoWait 4999999 ∧ s.link.mode = .active ∧ s.pub.stage ≠ .offered 7 1 ∧ s.pub.stateNo = some 7 ∧
        ({ s.pub with stage := .offered 7 1 } : Publisher).stage = .offered 7 1) ∧
    (let s := sending (.drop 1) 0 (.echoWait 5000000) base;
      s.running = true ∧ s.link.stage = .echoWait 5000000) ∧
    (∀ n r hold items, FrameBody.drop 1 ≠ .bulletin n r hold items) ∧ (∀ last, base.link.stage ≠ .echoWait last) ∧
    (let s := sending (.bulletin 6 0 58 []) 0 (.echoWait 5000000) { base with link := { base.link with mode := .muted } };
      s.running = true ∧ s.link.mode = .muted ∧ s.pub.stateNo = some 7 ∧ (7 : StateNo) ≠ 6) :=
  ⟨by decide, by decide, nofun, nofun, by decide⟩

theorem test_met_FailedAttemptsCountToEight :
    (let s := sending (.drop 1) 6 (.echoWait 4999800) base;
      s.running = true ∧ s.link.inHand = some ⟨⟨3, 3, .drop 1⟩, 6, true, 4990000⟩ ∧ s.link.stage = .echoWait 4999800 ∧
        4999800 + 200 ≤ s.micros ∧ s.link.mode = .active) ∧
    (let s := sending (.drop 1) 7 (.sending 5000000) base;
      s.running = true ∧ s.link.inHand = some ⟨⟨3, 3, .drop 1⟩, 7, true, 4990000⟩ ∧ s.link.stage = .sending 5000000) ∧
    (let s := sending (.drop 1) 7 (.sending 5000000) { base with link := { base.link with mode := .muted } };
      s.link.mode = .muted ∧ s.params.recovery = .auto) ∧
    (¬ ∃ last, base.link.stage = .sending last ∨ base.link.stage = .echoWait last) :=
  ⟨by decide, by decide, by decide, by rintro ⟨_, h | h⟩ <;> cases h⟩

/-- `base` MUTED with the probe timer at a clock reading. -/
def mutedAt (t : Time) : State := { base with link := { base.link with mode := .muted, probeTimer := some t } }

theorem mutedAt_linkInv (t : Time) : (mutedAt t).linkInv :=
  ⟨⟨fun _ => rfl, fun _ => rfl⟩, fun _ => rfl, nofun, fun _ _ => rfl⟩

theorem test_met_ProbesAreStarted :
    (base.running = true ∧ base.linkInv ∧ base.link.probeTimer = none ∧ base.link.mode = .active) ∧
    ((mutedAt 5000).running = true ∧ (mutedAt 5000).linkInv ∧ (mutedAt 5000).link.probeTimer = some 5000 ∧
      (mutedAt 5000).link.mode = .muted ∧ (mutedAt 5000).link.inHand = none ∧ (mutedAt 5000).reached 5000 = true ∧
      (mutedAt 5001).reached 5001 = false) ∧
    ((mutedAt 5000).free ∧ (mutedAt 5000).ctl.mode = .run ∧ base.free ∧ base.ctl.mode = .run) :=
  ⟨⟨by decide, base_linkInv, rfl, rfl⟩, ⟨by decide, mutedAt_linkInv _, rfl, rfl, rfl, by decide, by decide⟩,
    ⟨rfl, rfl⟩, rfl, ⟨rfl, rfl⟩, rfl⟩

theorem test_met_ClockComparesAcrossTheWrap :
    (4294967295 : Nat) ≤ 4294967296 ∧ 4294967296 - 4294967295 < 2147483648 ∧ (2147483647 : Nat) - 0 < 2147483648 := by decide

theorem test_met_FramesReadBackAsSent :
    (⟨255, 65535, .hold 255 255 255 65535⟩ : Frame).wellFormed = true ∧
    (⟨0, 0, .bulletin 65535 255 65535 (List.replicate 24 ⟨65535, 255, 255⟩)⟩ : Frame).wellFormed = true := by decide +kernel

/-! ### The invariants hold of states at work -/

theorem base_claimListInv : base.claimListInv := by unfold State.claimListInv; decide

theorem test_met_StepsKeepTheTables : base.tablesInv ∧ step base = .next (tick base) :=
  ⟨⟨base_storeInv, by unfold State.eventInv; decide, by unfold State.peerTableInv; decide, base_zoneInv, base_claimListInv,
    by unfold State.slotInv; decide⟩, rfl⟩

theorem base_driveInv : base.driveInv := ⟨nofun, nofun, by decide⟩

theorem base_zones : base.claims.zones = [⟨1, .idle, []⟩, ⟨2, .idle, []⟩] := rfl

theorem own_base (z : Nat) : base.own z = .idle := by
  unfold State.own State.zone?
  rw [base_zones]
  split
  · rename_i c h
    have m := List.mem_of_find?_eq_some h
    simp only [List.mem_cons, List.not_mem_nil, or_false] at m
    rcases m with rfl | rfl <;> rfl
  · rfl

theorem base_job : base.claims.job = none := rfl

theorem base_active : base.seq.active = none := rfl

theorem base_claimInv : base.claimInv := by
  refine ⟨fun z h => absurd (own_base z) h, fun z h => absurd (own_base z) h, fun l h => ?_, fun p h => ?_⟩
  · rw [base_job] at h; contradiction
  · rw [base_active] at h; contradiction

theorem base_workInv : base.workInv := fun _ =>
  ⟨base_modeInv, base_portInv, base_programInv, base_driveInv, base_claimInv, base_linkInv⟩

theorem test_met_StepsKeepTheWorkTogether : base.workInv ∧ step base = .next (tick base) := ⟨base_workInv, rfl⟩

/-- An OPERATE of earthing switch 305, which requires no zone, drives it in the act of being taken. -/
theorem test_met_CoilsAreEnergisedOnlyOnAPermit :
    base.workInv ∧ exec (.operate 1 1 305 2) base = .next (after (.operate 1 1 305 2) base) ∧
    (∀ bytes, Instr.operate 1 1 305 2 ≠ .recordGapTimeout bytes) ∧ base.bay.drive = none ∧
    (after (.operate 1 1 305 2) base).bay.drive = some ⟨305, .closed, 5000, 15000, false, 1, 1⟩ :=
  ⟨base_workInv, rfl, nofun, rfl, by decide⟩

end Sys2Proof.Tests
end

section
/-! PROOFS. The configuration store (section 1.4, R10): what a WRITE_CONFIG, the end of its storing, a failure of the
supply and a start make of the store. -/
namespace Sys2Proof.Machine

/-! ### WRITE_CONFIG taken -/

theorem validBlock_iff (offset : Nat) : validBlock offset = true ↔ offset % 64 = 0 ∧ offset ≤ 16320 := by
  rw [validBlock, Bool.and_eq_true, beq_iff_eq, decide_eq_true_iff]
  rfl

/-- R167's row of WRITE_CONFIG: every mode but HALTED refuses it. -/
theorem modeRefusal_store {m : UnitMode} (h : m ≠ .halted) : modeRefusal m .store = some .notHalted := by
  cases m with
  | halted => exact absurd rfl h
  | loading | quiet | run => rfl

/-- A free unit takes a WRITE_CONFIG of 64 bytes at once. -/
theorem exec_writeConfig_free {s : State} (hs : s.free) (tag : Byte) (offset : Nat) {data : List Byte}
    (hd : data.length = 64) :
    exec (.writeConfig tag offset data) s =
      .next ((s.holding tag (.writeConfig offset data)).takeRequest ⟨tag, .writeConfig offset data⟩) := by
  have hexec := exec_commandOf tag (r := .writeConfig offset data) hd s
  rwa [State.receive_free hs] at hexec

/-- In HALTED a WRITE_CONFIG gets past the admission by mode (R167). -/
theorem exec_writeConfig_halted {s : State} (hs : s.free) (hm : s.ctl.mode = .halted) (tag : Byte) (offset : Nat)
    {data : List Byte} (hd : data.length = 64) :
    exec (.writeConfig tag offset data) s =
      .next ((s.holding tag (.writeConfig offset data)).takeWriteConfig ⟨tag, .writeConfig offset data⟩ offset data) := by
  have hadmit : modeRefusal (s.holding tag (.writeConfig offset data)).ctl.mode .store = none := by
    show modeRefusal s.ctl.mode .store = none
    rw [hm]; rfl
  rw [exec_writeConfig_free hs tag offset hd, State.take_admitted hadmit]
  rfl

theorem exec_writeConfig_notHalted {s : State} (hs : s.free) (hm : s.ctl.mode ≠ .halted) (tag : Byte) (offset : Nat)
    {data : List Byte} (hd : data.length = 64) :
    exec (.writeConfig tag offset data) s = .next (s.replied 0x04 tag .notHalted .none) := by
  have hrefuse : modeRefusal (s.holding tag (.writeConfig offset data)).ctl.mode .store = some .notHalted :=
    modeRefusal_store hm
  rw [exec_writeConfig_free hs tag offset hd, State.take_refused hrefuse]
  rfl

theorem exec_writeConfig_badOffset {s : State} (hs : s.free) (hm : s.ctl.mode = .halted) (tag : Byte) {offset : Nat}
    (ho : offset % 64 ≠ 0 ∨ 16320 < offset) {data : List Byte} (hd : data.length = 64) :
    exec (.writeConfig tag offset data) s = .next (s.replied 0x04 tag .badRequest .none) := by
  have hinvalid : ¬ validBlock offset = true := by rw [validBlock_iff]; omega
  rw [exec_writeConfig_halted hs hm tag offset hd, State.takeWriteConfig, if_neg hinvalid]
  rfl

theorem exec_writeConfig_block {s : State} (hs : s.free) (hm : s.ctl.mode = .halted) (tag : Byte) {offset : Nat}
    (hmod : offset % 64 = 0) (hle : offset ≤ 16320) {data : List Byte} (hd : data.length = 64) :
    exec (.writeConfig tag offset data) s =
      .next { s.holding tag (.writeConfig offset data) with
        ctl := { s.ctl with blockWrite := some ⟨offset, data⟩ } } := by
  rw [exec_writeConfig_halted hs hm tag offset hd, State.takeWriteConfig, if_pos ((validBlock_iff offset).2 ⟨hmod, hle⟩)]
  rfl

/-! ### The block stored, or torn by a failure of the supply -/

/-- With no request waiting there is none to take after the one released (R166). -/
theorem State.pump_of_waiting_none {s : State} (h : s.port.waiting = none) : s.pump = s := by
  unfold State.pump
  rw [h]
  cases s.port.inHand <;> rfl

/-- The end of the storing answers the WRITE_CONFIG in hand; with no request waiting that is all it does. -/
theorem exec_configBlockStored_eq {s : State} {w : BlockWrite} {tg : Tagged} (hs : s.supplied = true)
    (hw : s.ctl.blockWrite = some w) (hin : s.port.inHand = some tg) (hwait : s.port.waiting = none) :
    exec .configBlockStored s = .next ((s.storeBlock w).answer tg .ok .none) := by
  have hnext : exec .configBlockStored s = .next (s.blockStored w) := by
    show execConfigBlockStored s = _
    rw [execConfigBlockStored, hw, hs]; rfl
  have hstored : s.blockStored w = ((s.storeBlock w).answer tg .ok .none).pump := by
    have hinHand : (s.storeBlock w).port.inHand = some tg := hin
    simp only [State.blockStored, hinHand]
  have hnone : ((s.storeBlock w).answer tg .ok .none).port.waiting = none := hwait
  rw [hnext, hstored, State.pump_of_waiting_none hnone]

/-- Losing the supply does to the store what it does to the block being stored. -/
theorem State.loseSupply_ctl (s : State) : s.loseSupply.ctl = s.tearBlock.ctl := rfl

theorem exec_supplyFailure_oldOrNew {s t : State} (hinv : s.storeInv) (hs : s.supplied = true)
    (h : exec .supplyFailure s = .next t) : OldOrNew s t := by
  have hnext : exec .supplyFailure s = .next s.loseSupply := by
    show execSupplyFailure s = _
    rw [execSupplyFailure, hs, if_pos rfl]
  obtain rfl : s.loseSupply = t := Host.Outcome.next.inj (hnext.symm.trans h)
  exact .of_torn hinv (congrArg StartControl.store s.loseSupply_ctl)

/-! ### Starts leave the store alone -/

@[simp] theorem State.start_store (s : State) (cause : StartCause) : (s.start cause).ctl.store = s.ctl.store := rfl

@[simp] theorem State.powerOnStart_store (s : State) : s.powerOnStart.ctl.store = s.ctl.store := rfl

@[simp] theorem State.beginStop_store (s : State) (why : StopReason) : (s.beginStop why).ctl.store = s.ctl.store := by
  simp [State.beginStop]

/-- A RESTART starts at once or begins an orderly stop; neither writes to the store. -/
theorem State.takeRestart_store (s : State) (t : Tagged) : (s.takeRestart t).ctl.store = s.ctl.store := by
  simp only [State.takeRestart]
  split
  case isTrue => simp
  case isFalse => simp

/-- A RESTART is admitted in every mode (R167). -/
theorem State.takeInPort_restart (s : State) (tag : Byte) :
    s.takeInPort ⟨tag, .restart⟩ = (s.holding tag .restart).takeRestart ⟨tag, .restart⟩ := rfl

theorem State.receiveRestart_store (s : State) (tag : Byte) :
    (s.receiveRequest ⟨tag, .restart⟩).ctl.store = s.ctl.store := by
  unfold State.receiveRequest
  split
  case isFalse => rfl
  case isTrue =>
    split
    · rw [State.takeInPort_restart, State.takeRestart_store]; rfl
    · rfl
    · simp

/-- With no block being stored, losing the supply leaves the store as it is. -/
theorem State.loseSupply_store {s : State} (h : s.ctl.blockWrite = none) : s.loseSupply.ctl.store = s.ctl.store := by
  rw [State.loseSupply_ctl, State.tearBlock, h]

theorem exec_powerOn_store {s t : State} (hb : s.ctl.blockWrite = none) (h : exec .powerOn s = .next t) :
    t.ctl.store = s.ctl.store := by
  obtain rfl := Host.Outcome.next.inj h
  split
  case isTrue => rw [State.powerOnStart_store, State.loseSupply_store hb]
  case isFalse => rw [State.powerOnStart_store]

/-- Settles O13: the admission of WRITE_CONFIG by mode and offset, the block stored, the block torn by a failure of the
supply, and the two starts. -/
theorem configBlocksAreStoredWhole : Obligations.ConfigBlocksAreStoredWhole := by
  refine ⟨fun s tag offset data hs hd => ⟨fun hm => ?_, fun hm ho => ?_, fun hm hmod hle => ?_⟩,
    fun s w tg hinv hs hw hin hwait => ?_, fun s t => exec_supplyFailure_oldOrNew, fun s t tag h => ?_,
    fun s t => exec_powerOn_store⟩
  · exact exec_writeConfig_notHalted hs hm tag offset hd
  · exact exec_writeConfig_badOffset hs hm tag ho hd
  · exact exec_writeConfig_block hs hm tag hmod hle hd
  · exact ⟨_, exec_configBlockStored_eq hs hw hin hwait, .of_written hinv hw rfl, rfl⟩
  · obtain rfl : s.receiveRequest ⟨tag, .restart⟩ = t := Host.Outcome.next.inj h
    exact s.receiveRestart_store tag

end Sys2Proof.Machine
end

section
/-! PROOFS. CLEAR_FAULT(switch) in QUIET and RUN (R37, R175): the checks of the point named, then the switch's filtered
value and its mark. -/
namespace Sys2Proof.Machine

/-! ### A request of R167's row of reads, taken in QUIET or RUN -/

/-- R167's row of the reads: QUIET and RUN refuse none of them. -/
theorem modeRefusal_read {m : UnitMode} (h : m = .quiet ∨ m = .run) : modeRefusal m .read = none := by
  rcases h with rfl | rfl <;> rfl

/-- A free unit in QUIET or RUN takes a request of the row of reads at once. -/
theorem exec_commandOf_read {s : State} (hs : s.free) (hm : s.ctl.mode = .quiet ∨ s.ctl.mode = .run) (tag : Byte)
    {r : Request} (hsend : Sendable r) (hrow : requestRow r = .read) :
    exec (commandOf tag r) s = .next ((s.holding tag r).takeAdmitted ⟨tag, r⟩) := by
  have hadmit : modeRefusal (s.holding tag r).ctl.mode (requestRow r) = none := by
    rw [hrow]; exact modeRefusal_read hm
  rw [exec_commandOf tag hsend, State.receive_free hs, State.take_admitted hadmit]

theorem exec_clearFaultSwitch_working {s : State} (hs : s.free) (hm : s.ctl.mode = .quiet ∨ s.ctl.mode = .run)
    (tag : Byte) (point : Nat) :
    exec (.clearFaultSwitch tag point) s = .next
      ((s.holding tag (.clearFaultSwitch point)).takeClearFaultSwitch ⟨tag, .clearFaultSwitch point⟩ point) :=
  exec_commandOf_read hs hm tag (r := .clearFaultSwitch point) trivial rfl

/-! ### The point that the request names -/

theorem YardModel.isLocalSwitch_of_point? {m : YardModel} {id : Nat} {d : PointDef} (h : m.point? id = some d) :
    m.isLocalSwitch id = true ↔ d.kind.isSwitch = true ∧ d.owner = m.unit := by
  rw [YardModel.isLocalSwitch, h, Bool.and_eq_true, beq_iff_eq]

theorem YardModel.point?_ne_none_of_isLocalSwitch {m : YardModel} {id : Nat} (h : m.isLocalSwitch id = true) :
    m.point? id ≠ none := by
  intro hnone
  rw [YardModel.isLocalSwitch, hnone] at h
  exact Bool.false_ne_true h

/-- The Bay I/O block finds a local point under the point's own number. -/
theorem State.id_of_localPoint? {s : State} {id : Nat} {p : LocalPoint} (h : s.localPoint? id = some p) : p.id = id := by
  simpa using List.find?_some h

theorem State.takeClearFaultSwitch_noPoint {s : State} {point : Nat} (h : s.ctl.model.point? point = none) (t : Tagged) :
    s.takeClearFaultSwitch t point = s.answer t .noSuchPoint .none := by
  rw [State.takeClearFaultSwitch, h, if_pos Option.isNone_none]

theorem State.takeClearFaultSwitch_notLocalSwitch {s : State} {point : Nat} {d : PointDef}
    (h : s.ctl.model.point? point = some d) (hd : d.kind.isSwitch = false ∨ d.owner ≠ s.unit) (t : Tagged) :
    s.takeClearFaultSwitch t point = s.answer t .badRequest .none := by
  have hremote : ¬ s.ctl.model.isLocalSwitch point = true := by
    rw [YardModel.isLocalSwitch_of_point? h]
    rintro ⟨hkind, howner⟩
    rcases hd with hother | howner'
    · exact Bool.false_ne_true (hother.symm.trans hkind)
    · exact howner' howner
  rw [State.takeClearFaultSwitch, if_neg (by simp [h]), if_neg hremote]

theorem State.takeClearFaultSwitch_localSwitch {s : State} {point : Nat} {p : LocalPoint}
    (h : s.ctl.model.isLocalSwitch point = true) (hp : s.localPoint? point = some p) (t : Tagged) :
    s.takeClearFaultSwitch t point = s.clearSwitch t p := by
  have hknown : ¬ (s.ctl.model.point? point).isNone = true := by
    simpa using YardModel.point?_ne_none_of_isLocalSwitch h
  rw [State.takeClearFaultSwitch, if_neg hknown, if_pos h, hp]

/-! ### The filtered value and the mark (R37) -/

theorem State.clearSwitch_notAtEnd (s : State) (t : Tagged) {p : LocalPoint}
    (h : p.value ≠ some .opened ∧ p.value ≠ some .closed) : s.clearSwitch t p = s.answer t .notAtEnd .none := by
  rw [State.clearSwitch, if_neg (not_or.2 h)]

theorem State.clearSwitch_unmarked (s : State) (t : Tagged) {p : LocalPoint}
    (h : p.value = some .opened ∨ p.value = some .closed) (hmark : p.suspect = false) :
    s.clearSwitch t p = s.answer t .ok .none := by
  rw [State.clearSwitch, if_pos h, hmark, if_neg Bool.false_ne_true]

theorem State.clearSwitch_marked (s : State) (t : Tagged) {p : LocalPoint}
    (h : p.value = some .opened ∨ p.value = some .closed) (hmark : p.suspect = true) :
    s.clearSwitch t p = (s.clearMark p.id).answer t .ok .none := by
  rw [State.clearSwitch, if_pos h, if_pos hmark]

/-- A mark cleared, in the words of Safety.lean: the mark goes, SUSPECT_CLEARED is raised, the point is handed over. -/
theorem State.clearMark_eq (s : State) (id : Nat) :
    s.clearMark id =
      ((s.pointSet id fun q => { q with suspect := false }).raise [.suspectCleared id]).handOver id := by
  rw [State.clearMark, State.mapPoint_eq, State.raise_one]

/-- Settles O38: the request is admitted and taken, the point it names is checked, and a local switch is dealt with by its
filtered value and its mark. -/
theorem switchFaultIsCleared : Obligations.SwitchFaultIsCleared := by
  intro s tag point hs hm
  have htaken := exec_clearFaultSwitch_working hs hm tag point
  refine ⟨fun hnone => ?noSuchPoint, fun d hd hother => ?badRequest, fun hlocal p hp => ?localSwitch⟩
  case noSuchPoint =>
    rw [htaken, State.takeClearFaultSwitch_noPoint (s := s.holding _ _) hnone]; rfl
  case badRequest =>
    rw [htaken, State.takeClearFaultSwitch_notLocalSwitch (s := s.holding _ _) hd hother]; rfl
  case localSwitch =>
    rw [State.takeClearFaultSwitch_localSwitch (s := s.holding _ _) hlocal hp] at htaken
    refine ⟨fun hopened hclosed => ?notAtEnd, fun hend => ⟨fun hmark => ?unmarked, fun hmark => ?marked⟩⟩
    case notAtEnd =>
      rw [htaken, State.clearSwitch_notAtEnd _ _ ⟨hopened, hclosed⟩]; rfl
    case unmarked =>
      rw [htaken, State.clearSwitch_unmarked _ _ hend hmark]; rfl
    case marked =>
      rw [htaken, State.clearSwitch_marked _ _ hend hmark, State.id_of_localPoint? hp, State.clearMark_eq]; rfl

end Sys2Proof.Machine
end

section
/-! PROOFS. The quality of an entry (R42): one rule per row of its table, then when a remote point's quality is GOOD. -/
namespace Sys2Proof.Machine

/-! ### Local points -/

/-- A local point's entry is GOOD from its first value on (R42). -/
theorem State.quality_of_local {s : State} {e : PointEntry} (hown : e.owner = s.unit) :
    s.quality e = if e.value = none then .never else .good := by
  rw [State.quality, if_pos hown]
  cases e.value <;> rfl

/-! ### Remote points, by the owner's status, its expiry and the entry's presence -/

section Remote
variable {s : State} {e : PointEntry} {p : PeerRecord} (hrem : e.owner ≠ s.unit) (hp : s.peer? e.owner = some p)
include hrem hp

theorem State.quality_of_peer_never (hst : p.status = .never) : s.quality e = .never := by
  simp only [State.quality, if_neg hrem, hp, hst]

theorem State.quality_of_peer_stale (hst : p.status = .stale) : s.quality e = .stale := by
  simp only [State.quality, if_neg hrem, hp, hst]

theorem State.quality_of_peer_withdrawn (hst : p.status = .withdrawn) : s.quality e = .withdrawn := by
  simp only [State.quality, if_neg hrem, hp, hst]

/-- The clock itself makes the entry STALE: a GOOD peer's expiry need not have been taken (R42, R51). -/
theorem State.quality_of_peer_expired (hst : p.status = .good) (hexp : s.reached p.expiry = true) :
    s.quality e = .stale := by
  simp only [State.quality, if_neg hrem, hp, hst, if_pos hexp]

theorem State.quality_of_held (hst : p.status = .good) (hexp : s.reached p.expiry = false) (hpres : e.presence = .held) :
    s.quality e = .good := by
  simp [State.quality, if_neg hrem, hp, hst, hexp, hpres]

theorem State.quality_of_missing (hst : p.status = .good) (hexp : s.reached p.expiry = false)
    (hpres : e.presence = .missing) : s.quality e = .missing := by
  simp [State.quality, if_neg hrem, hp, hst, hexp, hpres]

theorem State.quality_of_absent (hst : p.status = .good) (hexp : s.reached p.expiry = false)
    (hpres : e.presence = .never) : s.quality e = .never := by
  simp [State.quality, if_neg hrem, hp, hst, hexp, hpres]

/-- Every row of the table but one gives a quality other than GOOD. -/
theorem State.quality_eq_good_iff :
    s.quality e = .good ↔ p.status = .good ∧ s.reached p.expiry = false ∧ e.presence = .held := by
  refine ⟨fun hgood => ?_, fun ⟨hst, hexp, hpres⟩ => State.quality_of_held hrem hp hst hexp hpres⟩
  cases hst : p.status with
  | never => cases hgood.symm.trans (State.quality_of_peer_never hrem hp hst)
  | stale => cases hgood.symm.trans (State.quality_of_peer_stale hrem hp hst)
  | withdrawn => cases hgood.symm.trans (State.quality_of_peer_withdrawn hrem hp hst)
  | good =>
    cases hexp : s.reached p.expiry with
    | true => cases hgood.symm.trans (State.quality_of_peer_expired hrem hp hst hexp)
    | false =>
      cases hpres : e.presence with
      | held => exact ⟨rfl, rfl, rfl⟩
      | missing => cases hgood.symm.trans (State.quality_of_missing hrem hp hst hexp hpres)
      | never => cases hgood.symm.trans (State.quality_of_absent hrem hp hst hexp hpres)

end Remote

/-- Settles O19: the rows of R42's table, each from its own rule, and the one row that makes a remote point GOOD. -/
theorem qualityIsDerived : Obligations.QualityIsDerived := fun _ _ =>
  ⟨State.quality_of_local, fun _ hrem hp =>
    ⟨State.quality_of_peer_never hrem hp, State.quality_of_peer_stale hrem hp, State.quality_of_peer_withdrawn hrem hp,
      State.quality_of_peer_expired hrem hp,
      fun hst hexp => ⟨State.quality_of_held hrem hp hst hexp, State.quality_of_missing hrem hp hst hexp,
        State.quality_of_absent hrem hp hst hexp⟩,
      State.quality_eq_good_iff hrem hp⟩⟩

end Sys2Proof.Machine
end

section
/-! PROOFS. READ_NODE in QUIET and RUN (R73): the facts of a colouring as membership in its sets (R67), the colour as a
function of the facts (R68), and the reply that carries them. -/
namespace Sys2Proof.Machine

/-! ### The facts of a node (R67) -/

theorem factOf_eq_yes_iff {certain possible : List Nat} {n : Nat} : factOf certain possible n = .yes ↔ n ∈ certain := by
  unfold factOf
  split
  case isTrue hc => simpa using hc
  case isFalse hc => split <;> simpa using hc

theorem factOf_eq_maybe_iff {certain possible : List Nat} {n : Nat} :
    factOf certain possible n = .maybe ↔ n ∈ possible ∧ n ∉ certain := by
  unfold factOf
  split
  case isTrue hc => simpa using fun _ => List.contains_iff_mem.1 hc
  case isFalse hc =>
    have hout : n ∉ certain := fun h => hc (List.contains_iff_mem.2 h)
    split
    case isTrue hp => simpa [hout] using hp
    case isFalse hp => simpa [hout] using hp

section
variable {n : Nat} (c : Colouring)

@[simp] theorem Colouring.live_zero : c.live 0 = .no := rfl

@[simp] theorem Colouring.earthed_zero : c.earthed 0 = .yes := rfl

/-- Node 0 is EARTH, whatever the sets hold (R68). -/
@[simp] theorem Colouring.colour_zero : c.colour 0 = .earthed := rfl

theorem Colouring.live_of_ne_zero (h : n ≠ 0) : c.live n = factOf c.liveCertain c.livePossible n := if_neg h

theorem Colouring.earthed_of_ne_zero (h : n ≠ 0) : c.earthed n = factOf c.earthCertain c.earthPossible n := if_neg h

end

/-! ### The colour, by the two facts (R68) -/

/-- R68's table read by its colours: each is shown on exactly the facts of its row. -/
theorem colourOf_table (live earthed : Fact) :
    (colourOf live earthed = .dead ↔ live = .no ∧ earthed = .no) ∧
    (colourOf live earthed = .live ↔ live = .yes ∧ earthed = .no) ∧
    (colourOf live earthed = .earthed ↔ live = .no ∧ earthed = .yes) ∧
    (colourOf live earthed = .clash ↔ live = .yes ∧ earthed = .yes) ∧
    (colourOf live earthed = .unsure ↔ live = .maybe ∨ earthed = .maybe) := by
  cases live with
  | no => cases earthed <;> decide
  | maybe => cases earthed <;> decide
  | yes => cases earthed <;> decide

/-! ### The request taken -/

theorem exec_readNode_working {s : State} (hs : s.free) (hm : s.ctl.mode = .quiet ∨ s.ctl.mode = .run) (tag : Byte)
    (node : Nat) :
    exec (.readNode tag node) s =
      .next ((s.holding tag (.readNode node)).takeReadNode ⟨tag, .readNode node⟩ node) :=
  exec_commandOf_read hs hm tag (r := .readNode node) trivial rfl

/-- A colouring sees the model and the image, not the bay port. -/
@[simp] theorem State.nodeReply_holding (s : State) (tag : Byte) (r : Request) (n : Nat) :
    (s.holding tag r).nodeReply n = s.nodeReply n := rfl

theorem exec_readNode_noNode {s : State} (hs : s.free) (hm : s.ctl.mode = .quiet ∨ s.ctl.mode = .run) (tag : Byte)
    {node : Nat} (h : s.ctl.model.highNode < node) :
    exec (.readNode tag node) s = .next (s.replied 0x21 tag .noSuchNode .none) := by
  have habove : (s.holding tag (.readNode node)).ctl.model.highNode < node := h
  rw [exec_readNode_working hs hm, State.takeReadNode, if_pos habove]
  rfl

theorem exec_readNode_node {s : State} (hs : s.free) (hm : s.ctl.mode = .quiet ∨ s.ctl.mode = .run) (tag : Byte)
    {node : Nat} (h : node ≤ s.ctl.model.highNode) :
    exec (.readNode tag node) s = .next (s.replied 0x21 tag .ok (s.nodeReply node)) := by
  have hwithin : ¬ (s.holding tag (.readNode node)).ctl.model.highNode < node := not_lt.2 h
  rw [exec_readNode_working hs hm, State.takeReadNode, if_neg hwithin, State.nodeReply_holding]
  rfl

/-- Settles O20: a number above the highest node is refused; any other is answered from the plain colouring, node 0 as
EARTH and every other node by the sets it stands in. -/
theorem readNodeShowsTheColour : Obligations.ReadNodeShowsTheColour := by
  intro s tag node hs hm
  refine ⟨exec_readNode_noNode hs hm tag, fun hle => ?_⟩
  let c := s.colouring .plain none
  refine ⟨c.live node, c.earthed node, c.colour node, exec_readNode_node hs hm tag hle, ?earth, ?facts,
    colourOf_table (c.live node) (c.earthed node)⟩
  case earth =>
    rintro rfl
    exact ⟨c.live_zero, c.earthed_zero, c.colour_zero⟩
  case facts =>
    intro hne
    rw [c.live_of_ne_zero hne, c.earthed_of_ne_zero hne]
    exact ⟨factOf_eq_yes_iff, factOf_eq_maybe_iff, factOf_eq_yes_iff, factOf_eq_maybe_iff⟩

end Sys2Proof.Machine
end

section
/-! PROOFS. Rank and what blocks a zone (R121). -/
namespace Sys2Proof.Machine

/-! ### The order of ranks -/

theorem Rank.better_iff (a b : Rank) : a.better b = true ↔
    b.urgency < a.urgency ∨ b.urgency = a.urgency ∧ (b.defer < a.defer ∨ b.defer = a.defer ∧ a.unit < b.unit) := by
  simp only [Rank.better, Bool.or_eq_true, Bool.and_eq_true, decide_eq_true_eq, beq_iff_eq, gt_iff_lt,
    eq_comm (a := a.urgency), eq_comm (a := a.defer)]

theorem Rank.better_asymm (a b : Rank) (h : a.better b = true) : b.better a = false := by
  rw [Rank.better_iff] at h
  rw [← Bool.not_eq_true, Rank.better_iff]
  omega

/-- Ranks of distinct units differ, so one of the two is better. -/
theorem Rank.better_total (a b : Rank) (h : a.unit ≠ b.unit) : a.better b = true ∨ b.better a = true := by
  cases hab : a.better b with
  | true => exact .inl rfl
  | false =>
    have hne : a ≠ b := fun heq => h (congrArg Rank.unit heq)
    exact .inr ((Rank.eq_or_better a b hab).resolve_left hne)

/-! ### Own rank, and the entries that block -/

theorem State.ownRank_of_active {s : State} {p : Program} (h : s.seq.active = some p) :
    s.ownRank = ⟨p.urgency, p.defer, s.unit⟩ := by
  rw [State.ownRank, State.ownUrgency, State.ownDefer, h]
  rfl

theorem State.live_iff (s : State) (e : PeerClaim) : s.live e = true ↔ s.reached e.expiry = false := by
  rw [State.live, Bool.not_eq_true']

/-- A HOLD blocks by its kind alone, an ASK by its rank alone. -/
theorem blocks_iff (own : Rank) (e : PeerClaim) :
    blocks own e = true ↔ e.kind = .hold ∨ e.kind = .ask ∧ e.rank.better own = true := by
  rw [blocks, Bool.or_eq_true, beq_iff_eq]
  cases e.kind with
  | hold => simp
  | ask => simp

theorem State.blocked_iff (s : State) (z : Nat) : s.blocked z = true ↔ ∃ e ∈ s.peersOf z, s.reached e.expiry = false ∧
    (e.kind = .hold ∨ e.kind = .ask ∧ e.rank.better s.ownRank = true) := by
  simp only [State.blocked, List.any_eq_true, Bool.and_eq_true, State.live_iff, blocks_iff]

/-- Settles O44: the order by urgency, defer count and unit; transitive, asymmetric, and total on distinct units; the own
rank and an entry's; and the live entries that block a zone. -/
theorem rankIsATotalOrder : Obligations.RankIsATotalOrder :=
  ⟨Rank.better_iff, Rank.better_trans, Rank.better_asymm, Rank.better_total, fun _ _ => State.ownRank_of_active,
    fun _ => rfl, State.blocked_iff⟩

end Sys2Proof.Machine
end

section
/-! PROOFS. CANCEL in QUIET and RUN (R157): the handle of no program, of a queued one, and of the active one in its
phases. -/
namespace Sys2Proof.Machine

/-! ### The program that bears a handle -/

theorem State.knowsHandle_iff (s : State) (h : Nat) : s.knowsHandle h = true ↔ h ∈ s.handlesInUse :=
  List.contains_iff_mem

theorem State.mem_handlesInUse_of_queued {s : State} {h : Nat} (hq : h ∈ s.seq.queue.map (·.handle)) :
    h ∈ s.handlesInUse := by
  rw [State.handlesInUse, List.map_append]
  exact List.mem_append_left _ hq

theorem State.mem_handlesInUse_of_active {s : State} {p : Program} (hp : s.seq.active = some p) :
    p.handle ∈ s.handlesInUse := by
  rw [State.handlesInUse, hp]
  simp

/-- The test that CANCEL makes: the active program bears the handle. -/
theorem State.activeHandle_iff (s : State) (h : Nat) :
    s.activeHandle = h ∧ s.seq.active.isSome = true ↔ ∃ p, s.seq.active = some p ∧ p.handle = h := by
  rw [State.activeHandle]
  cases s.seq.active with
  | none => simp
  | some p => simp

/-! ### A stop, and the take-up after it -/

/-- While a program is active none is taken up (R148). -/
theorem State.takeUpNext_of_active {s : State} {p : Program} (hp : s.seq.active = some p) : s.takeUpNext = s := by
  rw [State.takeUpNext]
  cases s.seq.queue with
  | nil => rfl
  | cons q rest => rw [takeUp, hp, Option.isSome_some, if_pos rfl]

/-- A stop cause that comes during a drive is kept if none is pending yet (R154). -/
theorem State.stopActive_driving {s : State} {p : Program} (hp : s.seq.active = some p) (hd : p.phase = .driving)
    (c : StopCause) :
    s.stopActive c = s.withActive { p with pendingStop := some (p.pendingStop.getD c) } := by
  simp only [State.stopActive, State.mapActive, hp, if_pos hd, Option.map_some]
  rfl

/-- Outside a drive a stop cause ends the program at once. -/
theorem State.stopActive_notDriving {s : State} {p : Program} (hp : s.seq.active = some p) (hd : p.phase ≠ .driving)
    (c : StopCause) : s.stopActive c = s.endActive (stopEnd c p.stepIndex) := by
  simp only [State.stopActive, hp, if_neg hd]

/-! ### CANCEL of a handle that is in use -/

theorem State.cancel_active {s : State} {p : Program} (hp : s.seq.active = some p) :
    s.cancel p.handle = (s.stopActive .cancel).takeUpNext :=
  if_pos ((s.activeHandle_iff p.handle).2 ⟨p, hp, rfl⟩)

/-- Without the active program bearing the handle, CANCEL takes the handle's program out of the queue and reports its
end; the others keep their order. -/
theorem State.cancel_queued {s : State} {h : Nat} (ha : ∀ p, s.seq.active = some p → p.handle ≠ h) :
    s.cancel h = ({ s with seq := { s.seq with queue := s.seq.queue.filter fun p => p.handle ≠ h } }).raise
      [.programEnd h (plainEnd .cancelled none 0)] := by
  have hother : ¬ (s.activeHandle = h ∧ s.seq.active.isSome = true) := by
    rw [State.activeHandle_iff]
    rintro ⟨p, hp, heq⟩
    exact ha p hp heq
  have hfilter : (s.seq.queue.filter fun p => p.handle != h) = s.seq.queue.filter fun p => p.handle ≠ h :=
    List.filter_congr fun p _ => by simp [bne, beq_eq_decide]
  rw [State.cancel, if_neg hother, hfilter]
  rfl

theorem State.cancel_active_driving {s : State} {p : Program} (hp : s.seq.active = some p) (hd : p.phase = .driving) :
    s.cancel p.handle = s.withActive { p with pendingStop := some (p.pendingStop.getD .cancel) } := by
  rw [State.cancel_active hp, State.stopActive_driving hp hd]
  exact State.takeUpNext_of_active rfl

theorem State.cancel_active_notDriving {s : State} {p : Program} (hp : s.seq.active = some p)
    (hd : p.phase ≠ .driving) :
    s.cancel p.handle = (s.endActive (plainEnd .cancelled none p.stepIndex)).takeUpNext := by
  rw [State.cancel_active hp, State.stopActive_notDriving hp hd]
  rfl

/-! ### The request taken -/

/-- A free unit in QUIET or RUN takes a CANCEL at once. -/
theorem exec_cancel_working {s : State} (hs : s.free) (hm : s.ctl.mode = .quiet ∨ s.ctl.mode = .run) (tag : Byte)
    (h : Nat) :
    exec (.cancel tag h) s = .next ((s.holding tag (.cancel h)).takeCancel ⟨tag, .cancel h⟩ h) :=
  exec_commandOf_read hs hm tag (r := .cancel h) trivial rfl

theorem exec_cancel_unknown {s : State} (hs : s.free) (hm : s.ctl.mode = .quiet ∨ s.ctl.mode = .run) (tag : Byte)
    {h : Nat} (hno : h ∉ s.handlesInUse) :
    exec (.cancel tag h) s = .next (s.replied 0x12 tag .unknownHandle .none) := by
  have hunknown : ¬ (s.holding tag (.cancel h)).knowsHandle h = true := (s.knowsHandle_iff h).not.2 hno
  rw [exec_cancel_working hs hm, State.takeCancel, if_neg hunknown]
  rfl

theorem exec_cancel_known {s : State} (hs : s.free) (hm : s.ctl.mode = .quiet ∨ s.ctl.mode = .run) (tag : Byte)
    {h : Nat} (hin : h ∈ s.handlesInUse) :
    exec (.cancel tag h) s = .next (((s.holding tag (.cancel h)).cancel h).replied 0x12 tag .ok .none) := by
  have hknown : (s.holding tag (.cancel h)).knowsHandle h = true := (s.knowsHandle_iff h).2 hin
  rw [exec_cancel_working hs hm, State.takeCancel, if_pos hknown]
  rfl

/-- Settles O29: CANCEL of an unknown handle, of a queued program, and of the active one, which ends at once unless it
is in DRIVING. -/
theorem cancelByState : Obligations.CancelByState := by
  intro s tag h hs hm v
  refine ⟨exec_cancel_unknown hs hm tag, fun hq ha => ?queued, ?active⟩
  case queued =>
    rw [exec_cancel_known hs hm tag (State.mem_handlesInUse_of_queued hq), State.cancel_queued (s := v) ha]
    rfl
  case active =>
    rintro p hp rfl
    have hactive : v.seq.active = some p := hp
    have hknown := exec_cancel_known hs hm tag (State.mem_handlesInUse_of_active hp)
    refine ⟨fun hd => ⟨_, State.endActive_ended hactive _, ?_⟩, fun hd => ?_⟩
    · rw [hknown, State.cancel_active_notDriving hactive hd]
    · rw [hknown, State.cancel_active_driving hactive hd]
      rfl

end Sys2Proof.Machine
end

section
/-! PROOFS. A property that every elementary act of the blocks keeps is kept by every operation made of such acts: said
once, for the invariants of the tables and of the transmitter. -/
namespace Sys2Proof.Machine

/-- A property that every elementary act of the bay, the image, the claims, the sequencer, the publisher, the transmit list
and the bay port keeps. -/
structure Kept (P : State → Prop) : Prop where
  bay : ∀ {s : State} (x : BayIO), P s → P (s.setBay x)
  seq : ∀ {s : State} (x : Sequencer), P s → P (s.setSeq x)
  pub : ∀ {s : State} (x : Publisher), P s → P (s.setPub x)
  event : ∀ {s : State} (b : EventBody), P s → P (s.event b)
  capture : ∀ {s : State} (c : Capture), P s → P (s.offerCapture c)
  offer : ∀ {s : State} (b : FrameBody), P s → P (s.offer b)
  image : ∀ {s : State} (e : List PointEntry) (m : List ZoneMove), P s →
    P (s.setImage { s.image with entries := e, moves := m })
  peer : ∀ {s : State} (unit : Nat) (f : PeerRecord → PeerRecord), (∀ p, (f p).unit = p.unit) → P s → P (s.mapPeer unit f)
  own : ∀ {s : State} (z : Nat) (o : OwnState), P s → P (s.setOwn z o)
  job : ∀ {s : State} (j : Option (List Nat)), P s → P (s.setJob j)
  enter : ∀ {s : State} (z : Nat) (e : PeerClaim), P s → P (s.enter z e)
  forget : ∀ {s : State} (z : Nat) (f : PeerClaim → Bool), P s →
    P (s.mapZone z fun c => { c with peers := c.peers.filter f })
  claimsMuted : ∀ {s : State}, P s → P s.claimsMuted
  mute : ∀ {s : State} (dup : Bool), P s → P (s.setLink (s.link.muted dup))
  armProbe : ∀ {s : State}, P s → P s.armProbe

namespace Kept
variable {P : State → Prop} (h : Kept P) {s : State}
include h

/-! ### The publisher -/

theorem restartSchedule (hs : P s) : P s.restartSchedule := by
  unfold State.restartSchedule
  split
  · exact h.offer _ (h.pub _ hs)
  · exact hs

theorem countState (hs : P s) (n : StateNo) : P (s.countState n) := h.restartSchedule (h.pub _ hs)

theorem publishChange (hs : P s) : P s.publishChange := by
  unfold State.publishChange
  split
  · exact hs
  · exact h.countState hs _

theorem publishDue (hs : P s) : P s.publishDue := h.offer _ (h.pub _ hs)

theorem publishSent (hs : P s) (n : StateNo) (r : Byte) : P (s.publishSent n r) := by
  unfold State.publishSent
  split
  · exact h.pub _ hs
  · exact hs

theorem probeSent (hs : P s) (n : StateNo) : P (s.probeSent n) := by
  unfold State.probeSent
  split
  · exact h.pub _ hs
  · exact h.restartSchedule (h.pub _ hs)

/-! ### The position image -/

theorem zoneMovement (hs : P s) (id : Nat) : P (s.zoneMovement id) := h.image _ _ hs

theorem localUpdate (hs : P s) (id : Nat) (v : Option PointValue) (mark : Bool) : P (s.localUpdate id v mark) := by
  unfold State.localUpdate
  split
  · exact hs
  next e _ =>
    have hentry : P (s.mapEntry id fun e => { e with value := v, suspect := mark, presence := .held }) :=
      h.image _ _ hs
    have hmoved : P (if e.value != v && e.kind.isSwitch then
        (s.mapEntry id fun e => { e with value := v, suspect := mark, presence := .held }).zoneMovement id
        else s.mapEntry id fun e => { e with value := v, suspect := mark, presence := .held }) := by
      split
      · exact h.zoneMovement hentry id
      · exact hentry
    simp only
    split
    · exact h.publishChange hmoved
    · exact hmoved

theorem handOver (hs : P s) (id : Nat) : P (s.handOver id) := by
  unfold State.handOver
  split
  · exact hs
  · exact h.localUpdate hs _ _ _

theorem revisionCheck (hs : P s) (sender revision : Nat) : P (s.revisionCheck sender revision) := by
  unfold State.revisionCheck
  split
  · exact h.peer _ _ (fun _ => rfl) hs
  · split
    · exact hs
    · split
      · exact hs
      · exact h.event _ (h.peer _ _ (fun _ => rfl) hs)

theorem zoneMovements (l : List PointEntry) : ∀ {s : State}, P s → P (zoneMovements l s) := by
  induction l with
  | nil => exact id
  | cons e rest ih => exact fun hs => ih (h.zoneMovement hs e.id)

theorem acceptNew (hs : P s) (p : PeerRecord) (n : StateNo) (r : Byte) (hold : Nat) (items : List Item) :
    P (s.acceptNew p n r hold items) := by
  unfold State.acceptNew
  have hmoved := h.zoneMovements (s.image.entries.filter (movedBy p.unit items))
    (h.image (s.image.entries.map (applyItem p.unit items)) s.image.moves hs)
  simp only
  split
  · exact h.peer _ _ (fun _ => rfl) hmoved
  · exact h.event _ (h.peer _ _ (fun _ => rfl) hmoved)

theorem acceptRepeat (hs : P s) (p : PeerRecord) (r : Byte) (hold : Nat) : P (s.acceptRepeat p r hold) :=
  h.peer _ _ (fun _ => rfl) hs

theorem acceptWithdrawal (hs : P s) (p : PeerRecord) (n : StateNo) (r : Byte) : P (s.acceptWithdrawal p n r) := by
  unfold State.acceptWithdrawal
  simp only
  split
  · exact h.peer _ _ (fun _ => rfl) hs
  · exact h.event _ (h.peer _ _ (fun _ => rfl) hs)

theorem takeBulletin (hs : P s) (sender : Nat) (n : StateNo) (r : Byte) (hold : Nat) (items : List Item) :
    P (s.takeBulletin sender n r hold items) := by
  unfold State.takeBulletin
  split
  · exact hs
  · split
    · exact hs
    · split
      · exact h.acceptWithdrawal hs _ _ _
      · split
        · exact h.acceptRepeat hs _ _ _
        · exact h.acceptNew hs _ _ _ _ _

theorem expirePeer (hs : P s) (unit : Nat) : P (s.expirePeer unit) := by
  unfold State.expirePeer
  split
  · exact hs
  · split
    · exact h.event _ (h.peer _ _ (fun _ => rfl) hs)
    · exact hs

theorem lapseStored (hs : P s) (which : StoredTime) : P (s.lapseStored which) := by
  cases which with
  | completion id => exact h.bay _ hs
  | movement z => exact h.image _ _ hs

/-! ### The Bay I/O block -/

theorem failSwitch (hs : P s) (kind : FaultKind) (id : Nat) (order : Option (Nat × Nat)) :
    P (s.failSwitch kind id order) := by
  cases order with
  | none => exact h.handOver (h.event _ (h.event _ (h.capture _ (h.bay _ hs)))) id
  | some o => exact h.handOver (h.bay _ (h.event _ (h.event _ (h.capture _ (h.bay _ (h.bay _ hs)))))) id

theorem driveOrder (hs : P s) (id : Nat) (t : Target) (handle step : Nat) : P (s.driveOrder id t handle step) := by
  unfold State.driveOrder
  split
  · exact h.bay _ (h.bay _ hs)
  · exact h.failSwitch hs _ _ _

theorem completeDrive (hs : P s) (id : Nat) : P (s.completeDrive id) :=
  h.handOver (h.bay _ (h.bay _ (h.bay _ hs))) id

theorem supervise (hs : P s) (d : DriveRecord) (v : PointValue) : P (s.supervise d v) := by
  unfold State.supervise
  split
  · exact h.completeDrive hs _
  · split
    · exact h.failSwitch hs _ _ _
    · split
      · exact h.failSwitch hs _ _ _
      · exact h.handOver (h.bay _ hs) _

theorem uncommanded (hs : P s) (id : Nat) (old : Option PointValue) (v : PointValue) : P (s.uncommanded id old v) := by
  unfold State.uncommanded
  split
  · exact h.event _ hs
  · exact hs

theorem localChange (hs : P s) (id : Nat) (old : Option PointValue) (v : PointValue) : P (s.localChange id old v) := by
  unfold State.localChange
  split
  · split
    · exact h.supervise hs _ _
    · exact h.handOver (h.bay _ (h.uncommanded hs _ _ _)) _
  · exact h.handOver hs _

theorem formReading (hs : P s) (line : Line) : P (s.formReading line) := by
  unfold State.formReading
  split
  · exact h.bay _ hs
  · exact h.bay _ hs
  · split
    · exact h.bay _ hs
    · exact hs

theorem lineChange (hs : P s) (line : Line) (made : Bool) : P (s.lineChange line made) := by
  unfold State.lineChange
  split
  · exact hs
  · simp only
    split
    · exact h.formReading (h.bay _ hs) line
    · exact h.bay _ hs

theorem filterPoint (hs : P s) (id : Nat) : P (s.filterPoint id) := by
  unfold State.filterPoint
  split
  · exact hs
  · split
    · exact hs
    · split
      · exact h.localChange (h.bay _ hs) _ _ _
      · exact hs

theorem stuckExpiry (hs : P s) (id : Nat) : P (s.stuckExpiry id) := by
  unfold State.stuckExpiry
  split
  · split
    · exact h.failSwitch hs _ _ _
    · exact hs
  · exact hs

theorem runExpiry (hs : P s) : P s.runExpiry := by
  unfold State.runExpiry
  split
  · split
    · exact h.failSwitch hs _ _ _
    · exact hs
  · exact hs

theorem clearMark (hs : P s) (id : Nat) : P (s.clearMark id) := h.handOver (h.event _ (h.bay _ hs)) id

/-! ### The claim controller -/

theorem askZone (hs : P s) (z : Nat) : P (s.askZone z) := h.offer _ (h.own z _ hs)

theorem holdZone (hs : P s) (z : Nat) : P (s.holdZone z) := h.offer _ (h.own z _ hs)

theorem dropZone (hs : P s) (z : Nat) : P (s.dropZone z) := by
  unfold State.dropZone
  split
  · exact hs
  · exact h.offer _ (h.own z _ hs)

theorem dropZones (l : List Nat) : ∀ {s : State}, P s → P (State.dropZones l s) := by
  induction l with
  | nil => exact id
  | cons z rest ih => exact fun hs => ih (h.dropZone hs z)

theorem claimOrder (hs : P s) (zones : List Nat) : P (s.claimOrder zones) := by
  cases zones with
  | nil => exact h.job _ hs
  | cons z rest => exact h.askZone (h.job _ hs) z

theorem loseWindow (hs : P s) (z : Nat) : P (s.loseWindow z) := h.seq _ (h.own z _ hs)

theorem retest (hs : P s) (z : Nat) : P (s.retest z) := by
  unfold State.retest
  split
  · exact h.askZone hs z
  · exact hs

theorem removeEntry (hs : P s) (z unit : Nat) (gone : PeerClaim → Bool) : P (s.removeEntry z unit gone) := by
  unfold State.removeEntry
  split
  · exact h.retest (h.forget z _ hs) z
  · exact hs

theorem secondAsk (hs : P s) (z : Nat) : P (s.secondAsk z) := by
  unfold State.secondAsk
  split
  · split
    · exact h.offer _ (h.own z _ hs)
    · exact hs
  · exact hs

theorem refreshZone (hs : P s) (z : Nat) : P (s.refreshZone z) := by
  unfold State.refreshZone
  split
  · split
    · exact h.holdZone hs z
    · exact hs
  · exact hs

/-! ### The program sequencer -/

theorem endActive (hs : P s) (e : EndStatus) : P (s.endActive e) := by
  unfold State.endActive
  split
  · exact hs
  · exact h.seq _ (h.event _ (h.seq _ (h.job _ (h.dropZones _ (h.seq _ hs)))))

theorem endQueued (reason : Reason) (l : List Program) : ∀ {s : State}, P s → P (endQueued reason l s) := by
  induction l with
  | nil => exact id
  | cons p rest ih => exact fun hs => ih (h.event _ hs)

theorem abortQueue (hs : P s) (reason : Reason) : P (s.abortQueue reason) := h.seq _ (h.endQueued reason _ hs)

theorem runSteps (l : List Step) : ∀ {s : State}, P s → P (runSteps l s) := by
  induction l with
  | nil => exact id
  | cons st rest ih =>
    intro s hs
    rw [Machine.runSteps]
    split
    · exact h.seq _ hs
    · split
      · exact h.driveOrder (h.seq _ hs) _ _ _ _
      · exact h.endActive hs _
      · cases rest with
        | nil => exact h.endActive (h.event _ hs) _
        | cons nxt more =>
          simp only
          split
          · exact h.endActive (h.seq _ (h.event _ hs)) _
          · exact ih (h.seq _ (h.seq _ (h.event _ hs)))

theorem testGuard (hs : P s) : P s.testGuard := h.runSteps _ hs

theorem enterGuard (hs : P s) : P s.enterGuard := h.testGuard (h.seq _ hs)

theorem startClaiming (hs : P s) (zones : List Nat) : P (s.startClaiming zones) := by
  unfold State.startClaiming
  split
  · exact h.enterGuard hs
  · exact h.claimOrder (h.seq _ hs) zones

theorem takeUpOne (hs : P s) (p : Program) (rest : List Program) : P (s.takeUpOne p rest) := by
  unfold State.takeUpOne
  simp only
  split
  · exact h.endActive (h.seq _ hs) _
  · split
    · exact h.endActive (h.seq _ hs) _
    · exact h.startClaiming (h.seq _ hs) _

theorem takeUp (l : List Program) : ∀ {s : State}, P s → P (takeUp l s) := by
  induction l with
  | nil => exact id
  | cons p rest ih =>
    intro s hs
    rw [Machine.takeUp]
    split
    · exact hs
    · exact ih (h.takeUpOne hs p rest)

theorem takeUpNext (hs : P s) : P s.takeUpNext := h.takeUp _ hs

theorem finish (hs : P s) (e : EndStatus) : P (s.finish e) := h.takeUpNext (h.endActive hs e)

theorem enqueue (hs : P s) (urgency : Nat) (steps : List Step) : P (s.enqueue urgency steps) := h.takeUpNext (h.seq _ hs)

theorem giveBack (hs : P s) (cause : YieldCause) (y : YieldFrom) : P (s.giveBack cause y) := by
  unfold State.giveBack
  split
  · exact hs
  · exact h.seq _ (h.claimOrder (h.event _ (h.dropZones _ hs)) _)

theorem yieldZones (hs : P s) (cause : YieldCause) (y : YieldFrom) : P (s.yieldZones cause y) := by
  unfold State.yieldZones
  simp only
  split
  · exact h.finish (h.giveBack hs cause y) _
  · exact h.giveBack hs cause y

theorem nextStep (hs : P s) (yield : Option YieldFrom) : P (s.nextStep yield) := by
  unfold State.nextStep
  simp only
  split
  · exact h.seq _ hs
  · split
    · exact h.finish (h.seq _ hs) _
    · split
      · exact h.yieldZones (h.seq _ hs) _ _
      · exact h.takeUpNext (h.enterGuard (h.seq _ hs))

theorem stepEnd (hs : P s) (p : Program) (r : DriveReport) : P (s.stepEnd p r) := by
  have hraised : P (match r, p.steps[p.stepIndex - 1]? with
      | .completed, some st => s.event (.stepComplete p.handle p.stepIndex st.switch .driven)
      | _, _ => s) := by
    split
    · exact h.event _ hs
    · exact hs
  unfold State.stepEnd
  simp only
  split
  · exact h.finish hraised _
  · split
    · exact h.finish hs _
    · split
      · exact h.finish hraised _
      · exact h.nextStep hraised _

theorem takeReport (hs : P s) : P s.takeReport := by
  unfold State.takeReport
  split
  · split
    · exact h.stepEnd (h.bay _ hs) _ _
    · exact hs
  · exact hs

theorem stopActive (hs : P s) (c : StopCause) : P (s.stopActive c) := by
  unfold State.stopActive
  split
  · exact hs
  · split
    · exact h.seq _ hs
    · exact h.endActive hs _

theorem localTakeover (hs : P s) : P s.localTakeover := h.abortQueue (h.stopActive hs _) _

theorem programsMuted (hs : P s) : P s.programsMuted := h.abortQueue (h.stopActive hs _) _

theorem cancel (hs : P s) (handle : Nat) : P (s.cancel handle) := by
  unfold State.cancel
  split
  · exact h.takeUpNext (h.stopActive hs _)
  · exact h.event _ (h.seq _ hs)

theorem yieldReported (hs : P s) (y : YieldFrom) : P (s.yieldReported y) := by
  unfold State.yieldReported
  split
  · exact h.seq _ hs
  · exact h.yieldZones hs _ _

theorem offerClash (hs : P s) (z : Nat) : P (s.offerClash z) := by
  unfold State.offerClash
  split
  · exact hs
  · exact h.event _ (h.capture _ (h.seq _ hs))

theorem splitLost (hs : P s) (y : YieldFrom) : P (s.splitLost y) := by
  unfold State.splitLost
  split
  · exact h.stopActive (h.offerClash hs _) _
  · exact h.yieldZones hs _ _

theorem winZone (hs : P s) (z : Nat) : P (s.winZone z) := by
  unfold State.winZone
  simp only
  split
  · exact h.askZone (h.holdZone hs z) _
  · exact h.takeUpNext (h.enterGuard (h.holdZone hs z))

theorem closeWindow (hs : P s) (z : Nat) : P (s.closeWindow z) := by
  unfold State.closeWindow
  split
  · split
    · split
      · exact h.loseWindow hs z
      · exact h.winZone hs z
    · exact hs
  · exact hs

theorem claimExpiry (hs : P s) : P s.claimExpiry := by
  unfold State.claimExpiry
  split
  · split
    · exact h.finish hs _
    · exact hs
  · exact hs

theorem guardRetest (hs : P s) : P s.guardRetest := by
  unfold State.guardRetest
  split
  · split
    · split
      · exact h.takeUpNext (h.testGuard hs)
      · exact hs
    · exact hs
  · exact hs

theorem guardExpiry (hs : P s) : P s.guardExpiry := by
  unfold State.guardExpiry
  split
  · split
    · split
      · exact h.finish hs _
      · exact hs
    · exact hs
  · exact hs

/-! ### Claim frames heard -/

theorem promptRetest (hs : P s) (z : Nat) (prompt : Bool) : P (s.promptRetest z prompt) := by
  unfold State.promptRetest
  split
  · exact h.retest hs z
  · exact hs

theorem askHeard (hs : P s) (z : Nat) (e : PeerClaim) (prompt : Bool) : P (s.askHeard z e prompt) := by
  unfold State.askHeard
  split
  · exact hs
  · split
    · exact h.loseWindow hs z
    · exact hs
  · exact h.promptRetest hs z prompt
  · exact h.holdZone hs z

theorem takeAsk (hs : P s) (sender z urgency defer lifetime : Nat) : P (s.takeAsk sender z urgency defer lifetime) := by
  unfold State.takeAsk
  split
  · exact h.askHeard (h.enter z _ hs) z _ _
  · exact hs

theorem yieldRule (hs : P s) (z : Nat) (e : PeerClaim) : P (s.yieldRule z e) := by
  unfold State.yieldRule
  split
  · exact h.offer _ hs
  · exact hs

theorem holdHeard (hs : P s) (z : Nat) (e : PeerClaim) (prompt : Bool) : P (s.holdHeard z e prompt) := by
  unfold State.holdHeard
  split
  · exact hs
  · exact h.yieldRule (h.loseWindow hs z) z e
  · exact h.yieldRule (h.promptRetest hs z prompt) z e
  · split
    · exact h.holdZone hs z
    · exact h.splitLost hs _

theorem takeHold (hs : P s) (sender z urgency defer holdMs : Nat) : P (s.takeHold sender z urgency defer holdMs) := by
  unfold State.takeHold
  split
  · exact h.holdHeard (h.enter z _ hs) z _ _
  · exact hs

theorem takeYield (hs : P s) (sender z urgency : Nat) : P (s.takeYield sender z urgency) := by
  unfold State.takeYield
  split
  · exact h.yieldReported hs _
  · exact hs

/-! ### The link entering MUTED, and frames received -/

theorem enterMuted (hs : P s) (kind : FaultKind) : P (s.enterMuted kind) :=
  h.armProbe (h.pub _ (h.programsMuted (h.claimsMuted (h.event _ (h.event _ (h.capture _ (h.mute _ hs)))))))

theorem duplicate (hs : P s) : P s.duplicate := by
  unfold State.duplicate
  split
  · exact hs
  · exact h.enterMuted hs _

theorem dispatch (hs : P s) (f : Frame) : P (s.dispatch f) := by
  unfold State.dispatch
  split
  · exact h.takeBulletin hs _ _ _ _ _
  · exact h.takeAsk hs _ _ _ _ _
  · exact h.takeHold hs _ _ _ _ _
  · exact h.removeEntry hs _ _ _
  · exact h.takeYield hs _ _ _

theorem receive (hs : P s) (f : Frame) : P (s.receive f) := by
  unfold State.receive
  split
  · exact hs
  · split
    · exact hs
    · split
      · exact h.duplicate hs
      · simp only
        split
        · exact h.dispatch (h.revisionCheck hs _ _) f
        · exact h.revisionCheck hs _ _

theorem filterSelector (hs : P s) : P s.filterSelector := by
  unfold State.filterSelector
  split
  · exact hs
  · split
    · simp only
      split
      · exact h.bay _ hs
      · split
        · exact h.localTakeover (h.event _ (h.bay _ hs))
        · exact h.event _ (h.bay _ hs)
    · exact hs

end Kept

end Sys2Proof.Machine
end

section
/-! PROOFS. The tables, lists and queues: their form and bounds are kept by every elementary act, and so by every step (R5,
R10, R43, R92, R124, R170). -/
namespace Sys2Proof.Machine

/-! ### Rows sorted by key -/

theorem insertBy_sorted {α : Type} (key : α → Nat) (a : α) (l : List α) (h : (l.map key).Pairwise (· ≤ ·)) :
    ((insertBy key a l).map key).Pairwise (· ≤ ·) := by
  induction l with
  | nil => simp [insertBy]
  | cons b rest ih =>
    rw [List.map_cons, List.pairwise_cons] at h
    obtain ⟨hb, hrest⟩ := h
    rw [insertBy]
    split
    next hab =>
      rw [List.map_cons, List.pairwise_cons]
      refine ⟨fun n hn => ?_, List.pairwise_cons.2 ⟨hb, hrest⟩⟩
      rcases List.mem_cons.1 hn with rfl | hn
      · exact hab
      · exact hab.trans (hb n hn)
    next hab =>
      rw [List.map_cons, List.pairwise_cons]
      refine ⟨fun n hn => ?_, ih hrest⟩
      obtain ⟨c, hc, rfl⟩ := List.mem_map.1 hn
      rcases (mem_insertBy key a c rest).1 hc with rfl | hc
      · omega
      · exact hb _ (List.mem_map_of_mem hc)

theorem sortBy_sorted {α : Type} (key : α → Nat) (l : List α) : ((sortBy key l).map key).Pairwise (· ≤ ·) := by
  induction l with
  | nil => exact List.Pairwise.nil
  | cons a rest ih => exact insertBy_sorted key a _ ih

/-- Rows of distinct keys, sorted, stand in strictly rising order. -/
theorem sortBy_rising {α : Type} (key : α → Nat) (l : List α) (h : (l.map key).Nodup) :
    ((sortBy key l).map key).Pairwise (· < ·) := by
  have hnodup : ((sortBy key l).map key).Nodup := ((sortBy_perm key l).map key).nodup_iff.2 h
  exact ((sortBy_sorted key l).and hnodup).imp fun ⟨hle, hne⟩ => lt_of_le_of_ne hle hne

/-! ### Rows changed by key -/

theorem map_modifyWhere {α β : Type} (p : α → Bool) (f : α → α) (key : α → β) (hf : ∀ a, key (f a) = key a) (l : List α) :
    (modifyWhere p f l).map key = l.map key := by
  rw [modifyWhere, List.map_map]
  refine List.map_congr_left fun a _ => ?_
  rw [Function.comp_apply]
  split
  · exact hf a
  · rfl

theorem forall_modifyWhere {α : Type} {Q : α → Prop} (p : α → Bool) {f : α → α} (hf : ∀ a, Q a → Q (f a)) {l : List α}
    (h : ∀ a ∈ l, Q a) : ∀ a ∈ modifyWhere p f l, Q a := by
  intro a ha
  obtain ⟨b, hb, rfl⟩ := List.mem_map.1 ha
  split
  · exact hf b (h b hb)
  · exact h b hb

/-! ### The tables' form, block by block -/

/-- The zones' records are those of the model, whatever their contents. -/
theorem State.zoneInv_congr {s t : State} (hz : t.claims.zones.map (·.zone) = s.claims.zones.map (·.zone))
    (hm : t.ctl.model = s.ctl.model) (h : s.zoneInv) : t.zoneInv := by
  obtain ⟨hmodel, hrise, hbound⟩ := h
  refine ⟨by rw [hz, hm]; exact hmodel, by rw [hz]; exact hrise, fun c hc => ?_⟩
  obtain ⟨d, hd, heq⟩ := List.mem_map.1 (hz ▸ List.mem_map_of_mem hc : c.zone ∈ s.claims.zones.map (·.zone))
  rw [← heq]
  exact hbound d hd

/-- The tables keep their form while the transmit list takes no slot twice. -/
theorem State.tablesInv.link {s : State} (h : s.tablesInv) {l : Link} (hl : (l.txList.map (·.body.slot)).Nodup) :
    (s.setLink l).tablesInv := by
  obtain ⟨hstore, hevent, hpeer, hzone, hlist, -⟩ := h
  exact ⟨hstore, hevent, hpeer, hzone, hlist, hl⟩

/-- The tables keep their form while the event queue keeps to its bound and the waiting request stays. -/
theorem State.tablesInv.port {s : State} (h : s.tablesInv) {p : Port} (he : p.events.length ≤ 32)
    (hw : p.waiting = s.port.waiting) : (s.setPort p).tablesInv := by
  obtain ⟨⟨hwf, hblock, hwait⟩, -, hpeer, hzone, hlist, hslot⟩ := h
  exact ⟨⟨hwf, hblock, fun tag offset data hd => hwait tag offset data (hw ▸ hd)⟩, he, hpeer, hzone, hlist, hslot⟩

/-- The tables keep their form while one zone's record keeps its number, and its list its bounds. -/
theorem State.tablesInv.zone {s : State} (h : s.tablesInv) (z : Nat) {f : ZoneClaim → ZoneClaim}
    (hf : ∀ c, (f c).zone = c.zone)
    (hl : ∀ c, c.peers.length ≤ 8 ∧ (c.peers.map (·.unit)).Nodup →
      (f c).peers.length ≤ 8 ∧ ((f c).peers.map (·.unit)).Nodup) : (s.mapZone z f).tablesInv := by
  obtain ⟨hstore, hevent, hpeer, hzone, hlist, hslot⟩ := h
  exact ⟨hstore, hevent, hpeer, State.zoneInv_congr (map_modifyWhere _ _ _ hf _) rfl hzone,
    forall_modifyWhere _ hl hlist, hslot⟩

theorem State.tablesInv.takeHead {s : State} (h : s.tablesInv) : s.takeHead.tablesInv := by
  obtain ⟨-, -, -, -, -, hslot⟩ := id h
  unfold State.takeHead
  split
  · exact h
  next f rest hl =>
    rw [State.slotInv, hl] at hslot
    exact h.link (List.nodup_cons.1 hslot).2

theorem State.tablesInv.takeInHand {s : State} (h : s.tablesInv) : s.takeInHand.tablesInv := by
  unfold State.takeInHand
  split
  · exact h.takeHead
  · exact h

theorem State.tablesInv.offer {s : State} (h : s.tablesInv) (b : FrameBody) : (s.offer b).tablesInv := by
  obtain ⟨-, -, -, -, -, hslot⟩ := id h
  unfold State.offer
  split
  · exact (h.link (insertFrame_slots _ _ hslot)).takeInHand
  · exact h

theorem State.tablesInv.event {s : State} (h : s.tablesInv) (b : EventBody) : (s.event b).tablesInv := by
  obtain ⟨-, hevent, -⟩ := id h
  rw [State.event_eq]
  exact h.port (s.event_length b hevent) (s.event_keeps b).2.2

theorem State.tablesInv.capture {s : State} (h : s.tablesInv) (c : Capture) : (s.offerCapture c).tablesInv := by
  obtain ⟨-, hevent, -⟩ := id h
  rw [State.offerCapture_eq]
  exact h.port hevent rfl

theorem State.tablesInv.peer {s : State} (h : s.tablesInv) (unit : Nat) {f : PeerRecord → PeerRecord}
    (hf : ∀ p, (f p).unit = p.unit) : (s.mapPeer unit f).tablesInv := by
  obtain ⟨hstore, hevent, hpeer, hzone, hlist, hslot⟩ := h
  exact ⟨hstore, hevent, (map_modifyWhere _ _ _ hf _).trans hpeer, hzone, hlist, hslot⟩

theorem State.tablesInv.claimsMuted {s : State} (h : s.tablesInv) : s.claimsMuted.tablesInv := by
  obtain ⟨hstore, hevent, hpeer, hzone, hlist, hslot⟩ := h
  refine ⟨hstore, hevent, hpeer, State.zoneInv_congr (s := s) ?_ rfl hzone, fun c hc => ?_, hslot⟩
  · exact List.map_map
  · obtain ⟨d, hd, rfl⟩ := List.mem_map.1 hc
    exact hlist d hd

/-- Every elementary act of the blocks keeps the form and the bounds of the tables. -/
theorem kept_tablesInv : Kept State.tablesInv where
  bay _ h := h
  seq _ h := h
  pub _ h := h
  event b h := h.event b
  capture c h := h.capture c
  offer b h := h.offer b
  image _ _ h := h
  peer unit _ hf h := h.peer unit hf
  own z _ h := h.zone z (fun _ => rfl) fun _ => id
  job _ h := h
  enter z e h := h.zone z (fun _ => rfl) fun _ ⟨hlen, hnodup⟩ => enterClaim_bounds _ _ _ _ hlen hnodup
  forget z f h := h.zone z (fun _ => rfl) fun c ⟨hlen, hnodup⟩ =>
    ⟨(List.length_filter_le f c.peers).trans hlen, hnodup.sublist (List.filter_sublist.map _)⟩
  claimsMuted h := h.claimsMuted
  mute _ h := h.link List.nodup_nil
  armProbe h := by
    obtain ⟨-, -, -, -, -, hslot⟩ := id h
    exact h.link hslot

/-! ### The yard link controller -/

section
variable {s : State} (h : s.tablesInv)
include h

/-- The transmit list as it is, with any other field of the link changed. -/
theorem State.tablesInv.sameList {l : Link} (hl : l.txList = s.link.txList) : (s.setLink l).tablesInv := by
  obtain ⟨-, -, -, -, -, hslot⟩ := id h
  exact h.link (by rw [hl]; exact hslot)

theorem State.tablesInv.startProbe : s.startProbe.tablesInv := by
  obtain ⟨-, -, -, -, -, hslot⟩ := id h
  exact ((kept_tablesInv.pub _ h).link (insertFrame_slots _ _ hslot)).takeInHand

theorem State.tablesInv.dropFrame (hand : InHand) : (s.dropFrame hand).tablesInv := by
  unfold State.dropFrame
  split
  · exact kept_tablesInv.enterMuted h _
  · unfold State.probeDropped
    split
    · exact h.sameList rfl
    · exact kept_tablesInv.enterMuted h _

theorem State.tablesInv.attemptFailed (collided : Bool) : (s.attemptFailed collided).tablesInv := by
  unfold State.attemptFailed
  split
  · exact h
  · simp only
    split
    · exact h.sameList rfl
    · exact h.dropFrame _

theorem State.tablesInv.frameSent (hand : InHand) : (s.frameSent hand).tablesInv := by
  have hidle : (s.setLink { s.link with inHand := none, stage := .idle }).tablesInv := h.sameList rfl
  unfold State.frameSent
  split
  · exact (kept_tablesInv.publishSent hidle _ _).takeInHand
  · exact kept_tablesInv.probeSent (kept_tablesInv.event _ (hidle.sameList
      (l := { s.link with inHand := none, stage := .idle, mode := .active, probeTimer := none }) rfl)) _
  · exact hidle.takeInHand

theorem State.tablesInv.attemptSent : s.attemptSent.tablesInv := by
  unfold State.attemptSent
  split
  · exact h
  · exact h.frameSent _

theorem State.tablesInv.beginAttempt : s.beginAttempt.tablesInv := by
  unfold State.beginAttempt
  split
  · split
    · exact h.sameList rfl
    · exact h
  · exact h

theorem State.tablesInv.mediumTurnsBusy : s.mediumTurnsBusy.tablesInv := by
  unfold State.mediumTurnsBusy
  split
  · exact h
  · exact h.sameList rfl

theorem State.tablesInv.mediumTurnsIdle : s.mediumTurnsIdle.tablesInv := by
  unfold State.mediumTurnsIdle
  split
  · exact h.sameList rfl
  · exact h

theorem State.tablesInv.probeExpiry : s.probeExpiry.tablesInv := by
  unfold State.probeExpiry
  split
  · split
    · exact h.startProbe
    · exact h
  · exact h

theorem State.tablesInv.clearLink : s.clearLink.tablesInv := by
  unfold State.clearLink
  split
  · exact (h.sameList (l := { s.link with dup := false }) rfl).startProbe
  · exact h

theorem State.tablesInv.tick : (tick s).tablesInv := by
  unfold Machine.tick
  split
  · exact h.sameList (l := { s.link with stage := txAdvance (s.micros + 1) s.link.stage }) rfl
  · exact h

/-! ### Start-up control -/

/-- A start's tables: the store as it was, one event, 48 peers, no zones and an empty list. -/
theorem State.tablesInv.start (cause : StartCause) : (s.start cause).tablesInv := by
  obtain ⟨⟨hwf, -, hwait⟩, -⟩ := h
  refine ⟨⟨hwf, nofun, hwait⟩, ?_, rfl, ⟨rfl, List.Pairwise.nil, nofun⟩, nofun, List.nodup_nil⟩
  exact (by decide : 1 ≤ 32)

theorem State.tablesInv.ctl {c : StartControl} (hm : c.model = s.ctl.model) (hs : c.store = s.ctl.store)
    (hb : ∀ w, c.blockWrite = some w → validBlock w.offset = true ∧ w.data.length = 64) : (s.setCtl c).tablesInv := by
  obtain ⟨⟨hwf, -, hwait⟩, hevent, hpeer, hzone, hlist, hslot⟩ := h
  exact ⟨⟨by rw [State.setCtl_ctl, hs]; exact hwf, hb, hwait⟩, hevent, hpeer, State.zoneInv_congr (s := s) rfl hm hzone, hlist, hslot⟩

theorem State.tablesInv.enterHalted (c : HaltCause) : (s.enterHalted c).tablesInv := by
  obtain ⟨⟨-, hblock, -⟩, -⟩ := id h
  exact h.ctl rfl rfl hblock

/-- A model that loading gives has its zones in rising order, each number in 1..24 (R5, R12). -/
theorem State.tablesInv.enterQuiet {m : YardModel} (hm : loadStore s.ctl.store = .loaded m) : (s.enterQuiet m).tablesInv := by
  obtain ⟨r, x, rfl, -, -, -, -, -, -, -, -, -, -, -, hcheck, -⟩ := loadStore_loaded _ m hm
  obtain ⟨⟨hwf, hblock, hwait⟩, hevent, hpeer, -, -, hslot⟩ := h
  rw [check8, Bool.and_eq_true, noRepeats_iff, List.all_eq_true] at hcheck
  obtain ⟨hzones, hnodup⟩ := hcheck
  have hnumbers : (s.enterQuiet (modelOf r x)).claims.zones.map (·.zone) = (sortBy (·.number) x.zones).map (·.number) :=
    List.map_map
  refine ⟨⟨hwf, hblock, hwait⟩, hevent, hpeer, ⟨hnumbers, ?_, fun c hc => ?_⟩, fun c hc => ?_, hslot⟩
  · rw [hnumbers]
    exact sortBy_rising _ _ hnodup
  · obtain ⟨z, hz, rfl⟩ := List.mem_map.1 hc
    have hrange := hzones z ((mem_sortBy _ _ _).1 hz)
    simp only [Bool.and_eq_true, within_iff] at hrange
    obtain ⟨⟨⟨hnumber, -⟩, -⟩, -⟩ := hrange
    exact hnumber
  · obtain ⟨z, -, rfl⟩ := List.mem_map.1 hc
    exact ⟨Nat.zero_le _, List.nodup_nil⟩

theorem State.tablesInv.endLoading : s.endLoading.tablesInv := by
  unfold State.endLoading
  split
  next m hm => exact h.enterQuiet hm
  · exact h.enterHalted _

theorem State.tablesInv.enterRun : s.enterRun.tablesInv := by
  obtain ⟨⟨-, hblock, -⟩, -⟩ := id h
  exact kept_tablesInv.countState (h.ctl (c := { s.ctl with mode := .run }) rfl rfl hblock) 0

/-- An orderly stop queues a DROP for each zone HELD and one withdrawal: a slot for each (R17, R92). -/
theorem State.tablesInv.beginStop (why : StopReason) : (s.beginStop why).tablesInv := by
  obtain ⟨⟨-, hblock, -⟩, -, -, ⟨-, hrise, hbound⟩, -, -⟩ := id h
  have hheld : s.heldZones.Nodup :=
    (hrise.sublist (List.filter_sublist.map _)).imp fun hlt => ne_of_lt hlt
  have hslots : s.stopFrames.map (·.body.slot) = s.heldZones ++ [0] := by
    simp [State.stopFrames, State.frame, State.withdrawal, FrameBody.slot, Function.comp_def]
  have hlist : (s.stopFrames.map (·.body.slot)).Nodup := by
    rw [hslots, List.nodup_append]
    refine ⟨hheld, List.nodup_singleton 0, fun z hz y hy => ?_⟩
    obtain ⟨c, hc, rfl⟩ := List.mem_map.1 hz
    obtain ⟨hone, -⟩ := hbound c (List.mem_of_mem_filter hc)
    rw [List.mem_singleton.1 hy]
    omega
  have hqueued : (s.setLink { s.link with inHand := none, stage := .idle, txList := s.stopFrames }).tablesInv := h.link hlist
  unfold State.beginStop
  refine State.tablesInv.takeHead ?_
  exact hqueued.ctl (c := { s.ctl with stopping := some why }) rfl rfl hblock

/-- A block of the store stored whole keeps its canonical form (R10). -/
theorem State.tablesInv.written {w : BlockWrite} (hw : s.ctl.blockWrite = some w) :
    storeWf (storeWriteBytes s.ctl.store w.offset w.data) = true := by
  obtain ⟨⟨hwf, hblock, -⟩, -⟩ := h
  obtain ⟨hvalid, hlen⟩ := hblock w hw
  obtain ⟨-, hle⟩ := (validBlock_iff w.offset).1 hvalid
  refine storeWriteBytes_wf _ _ _ hwf ?_
  rw [hlen]
  exact (by omega : w.offset + 64 ≤ 16384)

theorem State.tablesInv.storeBlock {w : BlockWrite} (hw : s.ctl.blockWrite = some w) : (s.storeBlock w).tablesInv := by
  have hwf := h.written hw
  obtain ⟨⟨-, -, hwait⟩, hevent, hpeer, hzone, hlist, hslot⟩ := h
  exact ⟨⟨hwf, nofun, hwait⟩, hevent, hpeer, hzone, hlist, hslot⟩

/-- The loss of supply leaves a block being stored old or new, in canonical form (R10). -/
theorem State.tablesInv.tearBlock : s.tearBlock.tablesInv := by
  unfold State.tearBlock
  split
  · exact h
  next w hw =>
    simp only
    split
    · exact h.storeBlock (w := w) hw
    · exact h.ctl (c := { s.ctl with blockWrite := none }) rfl rfl nofun

theorem State.tablesInv.loseSupply : s.loseSupply.tablesInv := by
  obtain ⟨⟨hwf, hblock, -⟩, hevent, hpeer, hzone, hlist, hslot⟩ := h.tearBlock
  exact ⟨⟨hwf, hblock, nofun⟩, hevent, hpeer, hzone, hlist, hslot⟩

theorem State.tablesInv.powerOnStart : s.powerOnStart.tablesInv := by
  have hcleared : (s.setPort { s.port with inHand := none, waiting := none }).tablesInv := by
    obtain ⟨⟨hwf, hblock, -⟩, hevent, hpeer, hzone, hlist, hslot⟩ := h
    exact ⟨⟨hwf, hblock, nofun⟩, hevent, hpeer, hzone, hlist, hslot⟩
  exact State.tablesInv.start
    (s := ((s.setSupplied true).setMicros 0).setPort { s.port with inHand := none, waiting := none }) hcleared .powerOn

/-! ### The bay port -/

theorem State.tablesInv.answer (t : Tagged) (status : ReplyStatus) (body : ReplyBody) :
    (s.answer t status body).tablesInv := by
  obtain ⟨-, hevent, -⟩ := id h
  exact h.port (p := { s.port.reply ⟨requestTypeCode t.request, t.tag, status, body⟩ with inHand := none }) hevent rfl

theorem State.tablesInv.reply (t : Tagged) (status : ReplyStatus) (body : ReplyBody) : (s.reply t status body).tablesInv := by
  obtain ⟨-, hevent, -⟩ := id h
  exact h.port hevent rfl

theorem State.tablesInv.release : s.release.tablesInv := by
  obtain ⟨-, hevent, -⟩ := id h
  exact h.port hevent rfl

end

/-- A request whose block, if it is a WRITE_CONFIG, has 64 bytes (R10). -/
def Tagged.BlockSized (t : Tagged) : Prop := ∀ offset data, t.request = .writeConfig offset data → data.length = 64

section
variable {s : State} (h : s.tablesInv)
include h

theorem State.tablesInv.takeHalt (t : Tagged) : (s.takeHalt t).tablesInv := by
  unfold State.takeHalt
  split
  · exact h.answer _ _ _
  · split
    · exact h.beginStop _
    · exact (kept_tablesInv.seq _ (h.enterHalted _)).answer _ _ _

theorem State.tablesInv.takeRestart (t : Tagged) : (s.takeRestart t).tablesInv := by
  unfold State.takeRestart
  simp only
  split
  · exact (h.reply t .ok .none).beginStop _
  · exact ((h.reply t .ok .none).start _).release

theorem State.tablesInv.takeWriteConfig (t : Tagged) (offset : Nat) {data : List Byte} (hd : data.length = 64) :
    (s.takeWriteConfig t offset data).tablesInv := by
  unfold State.takeWriteConfig
  split
  next hv =>
    refine h.ctl rfl rfl fun w hw => ?_
    obtain rfl := Option.some.inj hw
    exact ⟨hv, hd⟩
  · exact h.answer _ _ _

theorem State.tablesInv.takeProgram (t : Tagged) (urgency : Nat) (fields : List StepField) :
    (s.takeProgram t urgency fields).tablesInv := by
  unfold State.takeProgram
  split
  · exact h.answer _ _ _
  · split
    · exact h.answer _ _ _
    · split
      · exact h.answer _ _ _
      · split
        · exact h.answer _ _ _
        · exact (kept_tablesInv.enqueue h _ _).answer _ _ _

theorem State.tablesInv.takeCancel (t : Tagged) (handle : Nat) : (s.takeCancel t handle).tablesInv := by
  unfold State.takeCancel
  split
  · exact (kept_tablesInv.cancel h handle).answer _ _ _
  · exact h.answer _ _ _

theorem State.tablesInv.takeCheck (t : Tagged) (point target : Nat) : (s.takeCheck t point target).tablesInv := by
  unfold State.takeCheck
  split
  · exact h.answer _ _ _
  · split
    · exact h.answer _ _ _
    · exact h.answer _ _ _

theorem State.tablesInv.takeReadPoint (t : Tagged) (point : Nat) : (s.takeReadPoint t point).tablesInv := by
  unfold State.takeReadPoint
  split
  · exact h.answer _ _ _
  · exact h.answer _ _ _

theorem State.tablesInv.takeReadNode (t : Tagged) (node : Nat) : (s.takeReadNode t node).tablesInv := by
  unfold State.takeReadNode
  split
  · exact h.answer _ _ _
  · exact h.answer _ _ _

theorem State.tablesInv.takeReadStatus (t : Tagged) : (s.takeReadStatus t).tablesInv := by
  obtain ⟨-, hevent, -⟩ := id h
  exact State.tablesInv.answer (h.port (p := { s.port with lost := false }) hevent rfl) _ _ _

theorem State.tablesInv.takeReadEvent (t : Tagged) : (s.takeReadEvent t).tablesInv := by
  obtain ⟨-, hevent, -⟩ := id h
  unfold State.takeReadEvent
  split
  · exact h.answer _ _ _
  next e rest he =>
    rw [State.eventInv, he, List.length_cons] at hevent
    exact State.tablesInv.answer (h.port (p := { s.port with events := rest }) (by show rest.length ≤ 32; omega) rfl) _ _ _

theorem State.tablesInv.takeReadCapture (t : Tagged) : (s.takeReadCapture t).tablesInv := by
  unfold State.takeReadCapture
  split
  · exact h.answer _ _ _
  · exact h.answer _ _ _

theorem State.tablesInv.takeUnlockCapture (t : Tagged) : (s.takeUnlockCapture t).tablesInv := by
  obtain ⟨-, hevent, -⟩ := id h
  exact State.tablesInv.answer (h.port (p := { s.port with capture := none }) hevent rfl) _ _ _

theorem State.tablesInv.clearSwitch (t : Tagged) (p : LocalPoint) : (s.clearSwitch t p).tablesInv := by
  unfold State.clearSwitch
  split
  · refine State.tablesInv.answer ?_ _ _ _
    split
    · exact kept_tablesInv.clearMark h _
    · exact h
  · exact h.answer _ _ _

theorem State.tablesInv.takeClearFaultSwitch (t : Tagged) (point : Nat) : (s.takeClearFaultSwitch t point).tablesInv := by
  unfold State.takeClearFaultSwitch
  split
  · exact h.answer _ _ _
  · split
    · split
      · exact h.clearSwitch _ _
      · exact h.answer _ _ _
    · exact h.answer _ _ _

theorem State.tablesInv.takeAdmitted {t : Tagged} (ht : t.BlockSized) : (s.takeAdmitted t).tablesInv := by
  unfold State.takeAdmitted
  split
  · exact h.takeReadStatus t
  · exact h.takeRestart t
  · exact h.takeHalt t
  next offset data hreq => exact h.takeWriteConfig t offset (ht offset data hreq)
  · exact h.takeProgram t _ _
  · exact h.takeProgram t _ _
  · exact h.takeCancel t _
  · exact h.takeCheck t _ _
  · exact h.takeReadPoint t _
  · exact h.takeReadNode t _
  · exact h.answer _ _ _
  · exact h.takeReadEvent t
  · exact h.takeReadCapture t
  · exact h.takeUnlockCapture t
  · exact h.takeClearFaultSwitch t _
  · exact h.clearLink.answer _ _ _
  · exact h.answer _ _ _

theorem State.tablesInv.takeInPort {t : Tagged} (ht : t.BlockSized) : (s.takeInPort t).tablesInv := by
  obtain ⟨-, hevent, -⟩ := id h
  have hhand : (s.setPort { s.port with inHand := some t }).tablesInv := h.port hevent rfl
  unfold State.takeInPort State.takeRequest
  split
  · exact hhand.answer _ _ _
  · exact hhand.takeAdmitted ht

theorem State.tablesInv.pump : s.pump.tablesInv := by
  unfold State.pump
  split
  next t hin hwait =>
    obtain ⟨⟨hwf, hblock, hsized⟩, hevent, hpeer, hzone, hlist, hslot⟩ := h
    have hcleared : (s.setPort { s.port with waiting := none }).tablesInv :=
      ⟨⟨hwf, hblock, nofun⟩, hevent, hpeer, hzone, hlist, hslot⟩
    refine hcleared.takeInPort fun offset data hreq => hsized t.tag offset data ?_
    rw [hwait, ← hreq]
  · exact h

theorem State.tablesInv.receiveRequest {t : Tagged} (ht : t.BlockSized) : (s.receiveRequest t).tablesInv := by
  unfold State.receiveRequest
  split
  · split
    · exact h.takeInPort ht
    · obtain ⟨⟨hwf, hblock, -⟩, hevent, hpeer, hzone, hlist, hslot⟩ := h
      refine ⟨⟨hwf, hblock, fun tag offset data hreq => ?_⟩, hevent, hpeer, hzone, hlist, hslot⟩
      obtain rfl := Option.some.inj hreq
      exact ht offset data rfl
    · exact h.reply _ _ _
  · exact h

end

/-- Only the type of WRITE_CONFIG reads as one, with a block of 64 bytes (R181). -/
theorem length_of_parseFields {type : Nat} {fields : List Byte} {offset : Nat} {data : List Byte}
    (hknown : type ∈ knownTypes) (h : parseFields type fields = some (.writeConfig offset data)) : data.length = 64 := by
  simp only [knownTypes, List.mem_cons, List.not_mem_nil, or_false] at hknown
  rcases hknown with rfl | rfl | rfl | rfl | rfl | rfl | rfl | rfl | rfl | rfl | rfl | rfl | rfl | rfl | rfl | rfl
  case inr.inr.inr.inl =>
    rcases fields with _ | ⟨o1, _ | ⟨o0, block⟩⟩
    · exact nomatch h
    · exact nomatch h
    · obtain ⟨hlen, heq⟩ := Option.ite_none_right_eq_some.1 (h : (if block.length = Config.blockBytes then
        some (Request.writeConfig (dec16 o1 o0) block) else none) = some (.writeConfig offset data))
      obtain ⟨-, rfl⟩ := Request.writeConfig.inj (Option.some.inj heq)
      exact hlen
  case inr.inr.inr.inr.inr.inl =>
    rcases fields with _ | ⟨u, _ | ⟨n, steps⟩⟩
    · exact nomatch h
    · exact nomatch h
    · exact nomatch (Option.ite_none_right_eq_some.1 (h : (if steps.length = 3 * n.toNat then
        some (Request.program u.toNat (parseSteps steps)) else none) = some (.writeConfig offset data))).2
  all_goals
    rcases fields with _ | ⟨a, _ | ⟨b, _ | ⟨c, _ | ⟨d, _ | ⟨e, rest⟩⟩⟩⟩⟩ <;> exact nomatch h

theorem blockSized_of_parseRecord {bs : List Byte} {t : Tagged} (h : parseRecord bs = some t) : t.BlockSized := by
  intro offset data hreq
  unfold parseRecord at h
  split at h
  · split at h
    · split at h
      next hknown =>
        obtain ⟨r, hr, rfl⟩ := Option.map_eq_some_iff.1 h
        obtain rfl : r = .writeConfig offset data := hreq
        exact length_of_parseFields (List.contains_iff_mem.1 hknown) hr
      · cases h
        cases hreq
    · cases h
  · cases h

section
variable {s : State} (h : s.tablesInv)
include h

theorem State.tablesInv.receiveRecord (record : List Byte) : (s.receiveRecord record).tablesInv := by
  unfold State.receiveRecord
  split
  next t ht => exact h.receiveRequest (blockSized_of_parseRecord ht)
  · exact h

theorem State.tablesInv.finishStop : s.finishStop.tablesInv := by
  unfold State.finishStop
  split
  · exact (h.start _).release.pump
  · refine State.tablesInv.pump ?_
    have hhalt : s.enterHalt.tablesInv := kept_tablesInv.seq _ (h.enterHalted _)
    unfold State.haltAnswered
    simp only
    split
    · exact hhalt.answer _ _ _
    · exact hhalt
  · exact h

theorem State.tablesInv.nextStopFrame : s.nextStopFrame.tablesInv := by
  have hidle : (s.setLink { s.link with inHand := none, stage := .idle }).tablesInv := h.sameList rfl
  unfold State.nextStopFrame
  simp only
  split
  · exact hidle.finishStop
  · exact hidle.takeHead

theorem State.tablesInv.blockStored {w : BlockWrite} (hw : s.ctl.blockWrite = some w) : (s.blockStored w).tablesInv := by
  unfold State.blockStored
  simp only
  split
  · exact ((h.storeBlock hw).answer _ _ _).pump
  · exact h.storeBlock hw

end

theorem receiveRecords_tablesInv (l : List (List Byte)) : ∀ {s : State}, s.tablesInv → (receiveRecords l s).tablesInv := by
  induction l with
  | nil => exact id
  | cons r rest ih => exact fun hs => ih (hs.receiveRecord r)

theorem State.tablesInv.guarded {s t : State} {c : Prop} [Decidable c] (h : s.tablesInv) (ht : t.tablesInv) :
    (if c then t else s).tablesInv := by
  split
  · exact ht
  · exact h

/-- Every command keeps the tables: each is the act of its owner, under its guard. -/
theorem exec_tablesInv {c : Instr} {s t : State} (h : s.tablesInv) (hexec : exec c s = .next t) : t.tablesInv := by
  have hreq : ∀ (tag : Byte) {r : Request}, (∀ offset data, r ≠ .writeConfig offset data) →
      (s.receiveRequest ⟨tag, r⟩).tablesInv := fun tag r hr =>
    h.receiveRequest fun offset data heq => absurd heq (hr offset data)
  cases c with
  | powerOn =>
    cases hexec
    split
    · exact h.loseSupply.powerOnStart
    · exact h.powerOnStart
  | supplyFailure => cases hexec; exact h.guarded h.loseSupply
  | loadingEnd => cases hexec; exact h.guarded h.endLoading
  | quietTimeExpiry => cases hexec; exact h.guarded h.enterRun
  | writeConfig tag offset data =>
    cases hexec
    split
    next hlen =>
      refine h.receiveRequest fun o d heq => ?_
      obtain ⟨-, rfl⟩ := Request.writeConfig.inj heq
      exact hlen
    · exact h
  | configBlockStored =>
    cases hexec
    split
    next w hw => exact h.guarded (h.blockStored hw)
    · exact h
  | stopFrameOutcome outcome => cases hexec; exact h.guarded h.nextStopFrame
  | stopFrameSkip => cases hexec; exact h.guarded h.nextStopFrame
  | unknownRequestType tag type =>
    cases hexec
    split
    · exact h
    · exact hreq tag nofun
  | requestRecordDiscard record => cases hexec; exact h.receiveRecord record
  | overrun tag type => cases hexec; exact h.guarded (h.reply _ _ _)
  | recordGapTimeout bytes => cases hexec; exact receiveRecords_tablesInv _ h
  | rawInputChange line made => cases hexec; exact kept_tablesInv.lineChange h line made
  | filterTimerExpiry input =>
    cases hexec
    refine h.guarded ?_
    cases input with
    | point id => exact kept_tablesInv.filterPoint h id
    | selector => exact kept_tablesInv.filterSelector h
  | runTimeExpiry => cases hexec; exact h.guarded (kept_tablesInv.runExpiry h)
  | stuckTimerExpiry switch => cases hexec; exact h.guarded (kept_tablesInv.stuckExpiry h switch)
  | driveEndReport => cases hexec; exact h.guarded (kept_tablesInv.takeReport h)
  | claimDeadline => cases hexec; exact h.guarded (kept_tablesInv.claimExpiry h)
  | guardReleaseTime => cases hexec; exact h.guarded (kept_tablesInv.guardRetest h)
  | guardDeadline => cases hexec; exact h.guarded (kept_tablesInv.guardExpiry h)
  | damagedFrame bytes =>
    cases hexec
    split
    · exact kept_tablesInv.receive h _
    · exact h
  | peerExpiry unit => cases hexec; exact h.guarded (kept_tablesInv.expirePeer h unit)
  | storedTimeLapse which => cases hexec; exact h.guarded (kept_tablesInv.lapseStored h which)
  | bulletin | ask | hold | drop | yieldRequest => cases hexec; exact kept_tablesInv.receive h _
  | secondAskTime zone => cases hexec; exact h.guarded (kept_tablesInv.secondAsk h zone)
  | windowEnd zone => cases hexec; exact h.guarded (kept_tablesInv.closeWindow h zone)
  | refreshTime zone => cases hexec; exact h.guarded (kept_tablesInv.refreshZone h zone)
  | peerEntryExpiry zone unit => cases hexec; exact h.guarded (kept_tablesInv.removeEntry h zone unit _)
  | bulletinDue =>
    cases hexec
    split
    · exact h.guarded (kept_tablesInv.publishDue h)
    · exact h
  | mediumBusy => cases hexec; exact h.mediumTurnsBusy
  | mediumIdle => cases hexec; exact h.mediumTurnsIdle
  | idleSpellComplete => cases hexec; exact h.guarded h.beginAttempt
  | echoMatched => cases hexec; exact h.guarded h.attemptSent
  | echoMismatch => cases hexec; exact h.guarded (h.attemptFailed true)
  | echoTimeout => cases hexec; exact h.guarded (h.attemptFailed false)
  | probeTimerExpiry => cases hexec; exact h.guarded h.probeExpiry
  | readStatus | restart | halt | operate | program | cancel | check | readPoint | readNode | readClaims | readEvent
  | readCapture | unlockCapture | clearFaultSwitch | clearFaultLink => cases hexec; exact hreq _ nofun

/-- Settles O57: a step is a microsecond or the front command's act, and both keep the tables. -/
theorem stepsKeepTheTables : Obligations.StepsKeepTheTables := by
  intro s t h hstep
  unfold step at hstep
  split at hstep
  · cases hstep
    exact h.tick
  next c rest _ => exact exec_tablesInv (s := s.setPending rest) h hstep

end Sys2Proof.Machine
end

section
/-! PROOFS. The handle a new program gets (R146). -/
namespace Sys2Proof.Machine

theorem State.handlesInUse_eq (s : State) :
    s.handlesInUse = s.seq.queue.map (·.handle) ++ (s.seq.active.map (·.handle)).toList := by
  rw [State.handlesInUse, List.map_append]
  cases s.seq.active <;> rfl

/-- The `k`-th handle from `h` on, 255 followed by 1. -/
def handleFrom (h k : Nat) : Nat := (h - 1 + k) % 255 + 1

theorem handleFrom_range (h k : Nat) : 1 ≤ handleFrom h k ∧ handleFrom h k ≤ 255 := by
  unfold handleFrom
  omega

theorem handleFrom_after {h : Nat} (h1 : 1 ≤ h) (h2 : h ≤ 255) (k : Nat) :
    handleFrom (handleAfter h) k = handleFrom h (k + 1) := by
  unfold handleFrom handleAfter
  split <;> omega

/-- The search finds the first handle that is not in use, or every one it tries is. -/
theorem freeHandle_cases (used : List Nat) (n : Nat) : ∀ {h : Nat}, 1 ≤ h → h ≤ 255 →
    (∀ j < n, handleFrom h j ∈ used) ∨
      ∃ k < n, freeHandle used n h = handleFrom h k ∧ handleFrom h k ∉ used ∧ ∀ j < k, handleFrom h j ∈ used := by
  induction n with
  | zero => exact fun _ _ => .inl fun j hj => absurd hj (Nat.not_lt_zero j)
  | succ n ih =>
    intro h h1 h2
    have hfirst : handleFrom h 0 = h := by unfold handleFrom; omega
    by_cases hin : h ∈ used
    · have hafter : 1 ≤ handleAfter h ∧ handleAfter h ≤ 255 := by unfold handleAfter; split <;> omega
      have hstep : freeHandle used (n + 1) h = freeHandle used n (handleAfter h) :=
        if_pos (List.contains_iff_mem.2 hin)
      have hshift : ∀ {m : Nat}, (∀ j < m, handleFrom (handleAfter h) j ∈ used) →
          ∀ j < m + 1, handleFrom h j ∈ used := by
        intro m hm j hj
        cases j with
        | zero => rw [hfirst]; exact hin
        | succ j => rw [← handleFrom_after h1 h2]; exact hm j (by omega)
      rcases ih hafter.1 hafter.2 with hall | ⟨k, hk, hfound, hfree, hbefore⟩
      · exact .inl (hshift hall)
      · refine .inr ⟨k + 1, by omega, ?_, ?_, hshift hbefore⟩
        · rw [hstep, hfound, handleFrom_after h1 h2]
        · rw [← handleFrom_after h1 h2]; exact hfree
    · refine .inr ⟨0, Nat.succ_pos n, ?_, by rw [hfirst]; exact hin, fun j hj => absurd hj (Nat.not_lt_zero j)⟩
      rw [hfirst]
      exact if_neg fun hc => hin (List.contains_iff_mem.1 hc)

/-- Six handles from one on are distinct. -/
theorem handleFrom_nodup (h : Nat) : ((List.range 6).map (handleFrom h)).Nodup := by
  refine List.Nodup.map_on (fun i hi j hj hij => ?_) List.nodup_range
  rw [List.mem_range] at hi hj
  unfold handleFrom at hij
  omega

/-- Five programs at most bear a handle, so that one of six handles is free. -/
theorem State.newHandle_found {s : State} (hq : s.seq.queue.length ≤ 4) (h1 : 1 ≤ s.seq.nextHandle)
    (h2 : s.seq.nextHandle ≤ 255) :
    ∃ k < 6, s.newHandle = handleFrom s.seq.nextHandle k ∧ handleFrom s.seq.nextHandle k ∉ s.handlesInUse ∧
      ∀ j < k, handleFrom s.seq.nextHandle j ∈ s.handlesInUse := by
  rcases freeHandle_cases s.handlesInUse 6 h1 h2 with hall | hfound
  · have hsub : (List.range 6).map (handleFrom s.seq.nextHandle) ⊆ s.handlesInUse := by
      intro x hx
      obtain ⟨j, hj, rfl⟩ := List.mem_map.1 hx
      exact hall j (List.mem_range.1 hj)
    have hlen := (List.subperm_of_subset (handleFrom_nodup _) hsub).length_le
    have hused : s.handlesInUse.length ≤ 5 := by
      rw [State.handlesInUse_eq, List.length_append, List.length_map]
      cases s.seq.active with
      | none => exact Nat.le_succ_of_le hq
      | some p => exact Nat.succ_le_succ hq
    rw [List.length_map, List.length_range] at hlen
    omega
  · exact hfound

/-- Settles O27: the search of six tries, the pigeonhole, and what the handles in use are. -/
theorem handlesAreFree : Obligations.HandlesAreFree := by
  intro s hinv
  obtain ⟨-, hlen, -, -, -, h1, h2, -⟩ := hinv
  refine ⟨State.newHandle_found hlen h1 h2, fun h => ?_⟩
  rw [State.handlesInUse_eq, List.mem_append, List.mem_map, Option.mem_toList, Option.map_eq_some_iff]

end Sys2Proof.Machine
end

section
/-! PROOFS. The programs, the drive and the claims agree with one another: what the sequencer's acts leave of a settled unit,
and what a drive that they begin rests on (R28, R90, R127, R145 to R156). -/
namespace Sys2Proof.Machine

/-! ### Settled units -/

/-- The queue's records, and the handles of all programs: `programInv` of what waits. -/
structure State.QueueInv (s : State) : Prop where
  mode : s.seq.active.isSome = true ∨ s.seq.queue ≠ [] → s.ctl.mode = .run
  length : s.seq.queue.length ≤ 4
  nodup : s.handlesInUse.Nodup
  range : ∀ h ∈ s.handlesInUse, 1 ≤ h ∧ h ≤ 255
  next : 1 ≤ s.seq.nextHandle ∧ s.seq.nextHandle ≤ 255
  queued : ∀ p ∈ s.seq.queue, p.phase = .queued ∧ p.stepIndex = 0 ∧ 1 ≤ p.steps.length ∧ p.steps.length ≤ 8

/-- The active program's own part of `programInv`. -/
structure Program.AtStep (p : Program) : Prop where
  queued : p.phase ≠ .queued
  finished : p.phase ≠ .finished
  first : 1 ≤ p.stepIndex
  last : p.stepIndex ≤ p.steps.length
  length : p.steps.length ≤ 8

/-- What `claimInv` says while a program is active. -/
structure State.ClaimsFor (s : State) (p : Program) : Prop where
  zones : ∀ z, s.own z ≠ .idle → z ∈ p.zones
  unheld : ∀ z, s.own z ≠ .idle → (s.own z).isHeld = false → p.phase = .claiming
  job : ∀ l, s.claims.job = some l → l = p.zones
  claiming : p.phase = .claiming → s.claims.job = some p.zones
  order : ∀ z ∈ p.zones, s.own z ≠ .idle → ∀ y ∈ p.zones.takeWhile (· != z), (s.own y).isHeld = true
  guard : p.phase.name = .guard → ∀ z ∈ p.zones, (s.own z).isHeld = true
  driving : p.phase = .driving → p.pendingStop = none → ∀ z ∈ p.zones, (s.own z).isHeld = true

/-- The programs, the drive and the claims agree, but that programs may wait with none active: the state of the unit
between the end of a program and the take-up of the next. -/
structure State.Settled (s : State) : Prop where
  queue : s.QueueInv
  step : ∀ p, s.seq.active = some p → p.AtStep
  drive : s.driveInv
  claim : s.claimInv

/-- A settled unit in which no program waits with none active. -/
structure State.Sound (s : State) : Prop extends s.Settled where
  taken : s.seq.active = none → s.seq.queue = []

theorem State.sound_iff (s : State) : s.Sound ↔ s.programInv ∧ s.driveInv ∧ s.claimInv := by
  constructor
  · rintro ⟨⟨⟨hmode, hlen, hnodup, hrange, hnext, hqueued⟩, hstep, hdrive, hclaim⟩, htaken⟩
    refine ⟨⟨hmode, hlen, htaken, hnodup, hrange, hnext.1, hnext.2, hqueued, fun p hp => ?_⟩, hdrive, hclaim⟩
    obtain ⟨h1, h2, h3, h4, h5⟩ := hstep p hp
    exact ⟨h1, h2, h3, h4, h5⟩
  · rintro ⟨⟨hmode, hlen, htaken, hnodup, hrange, hnext, hnext', hqueued, hstep⟩, hdrive, hclaim⟩
    refine ⟨⟨⟨hmode, hlen, hnodup, hrange, ⟨hnext, hnext'⟩, hqueued⟩, fun p hp => ?_, hdrive, hclaim⟩, htaken⟩
    obtain ⟨h1, h2, h3, h4, h5⟩ := hstep p hp
    exact ⟨h1, h2, h3, h4, h5⟩

theorem State.claimInv_iff {s : State} {p : Program} (ha : s.seq.active = some p) : s.claimInv ↔ s.ClaimsFor p := by
  constructor
  · rintro ⟨hzones, hunheld, hjob, hprog⟩
    obtain ⟨hclaiming, horder, hguard, hdriving⟩ := hprog p ha
    refine ⟨fun z hz => ?_, fun z hz hh => ?_, fun l hl => ?_, hclaiming, horder, hguard, hdriving⟩
    · obtain ⟨q, hq, hmem⟩ := hzones z hz
      rw [ha] at hq
      exact Option.some.inj hq ▸ hmem
    · obtain ⟨q, hq, hphase⟩ := hunheld z hz hh
      rw [ha] at hq
      exact Option.some.inj hq ▸ hphase
    · obtain ⟨q, hq, heq⟩ := hjob l hl
      rw [ha] at hq
      exact Option.some.inj hq ▸ heq
  · rintro ⟨hzones, hunheld, hjob, hclaiming, horder, hguard, hdriving⟩
    refine ⟨fun z hz => ⟨p, ha, hzones z hz⟩, fun z hz hh => ⟨p, ha, hunheld z hz hh⟩, fun l hl => ⟨p, ha, hjob l hl⟩,
      fun q hq => ?_⟩
    rw [ha] at hq
    obtain rfl := Option.some.inj hq
    exact ⟨hclaiming, horder, hguard, hdriving⟩

theorem State.claimInv_of_idle {s : State} (ha : s.seq.active = none) (ho : ∀ z, s.own z = .idle)
    (hj : s.claims.job = none) : s.claimInv := by
  refine ⟨fun z hz => absurd (ho z) hz, fun z hz => absurd (ho z) hz, fun l hl => ?_, fun p hp => ?_⟩
  · rw [hj] at hl; exact nomatch hl
  · rw [ha] at hp; exact nomatch hp

theorem State.driving_iff (s : State) : s.driving = true ↔ ∃ p, s.seq.active = some p ∧ p.phase = .driving := by
  rw [State.driving]
  cases s.seq.active with
  | none => simp
  | some p => simp

/-- With no drive and no report, and no program in DRIVING, there is nothing to agree with. -/
theorem State.driveInv_of_none {s : State} (hd : s.bay.drive = none) (hr : s.bay.report = none)
    (hp : ∀ p, s.seq.active = some p → p.phase ≠ .driving) : s.driveInv := by
  refine ⟨fun d h => ?_, fun h => ?_, fun h => ?_⟩
  · rw [hd] at h; exact nomatch h
  · rw [hr] at h; exact nomatch h
  · obtain ⟨p, ha, hphase⟩ := s.driving_iff.1 h
    exact absurd hphase (hp p ha)

/-- The queue's part depends on the queue, the handles and the mode alone. -/
theorem State.QueueInv.congr {s t : State} (h : s.QueueInv) (hq : t.seq.queue = s.seq.queue)
    (ha : t.seq.active.map (·.handle) = s.seq.active.map (·.handle)) (hn : t.seq.nextHandle = s.seq.nextHandle)
    (hc : t.ctl.mode = s.ctl.mode) : t.QueueInv := by
  obtain ⟨hmode, hlen, hnodup, hrange, hnext, hqueued⟩ := h
  have huse : t.handlesInUse = s.handlesInUse := by rw [State.handlesInUse_eq, State.handlesInUse_eq, hq, ha]
  have hsome : t.seq.active.isSome = s.seq.active.isSome := by
    have hmap := congrArg Option.isSome ha
    rwa [Option.isSome_map, Option.isSome_map] at hmap
  exact ⟨by rw [hsome, hq, hc]; exact hmode, by rw [hq]; exact hlen, by rw [huse]; exact hnodup, by rw [huse]; exact hrange,
    by rw [hn]; exact hnext, by rw [hq]; exact hqueued⟩

/-- The programs that remain when some have gone keep their records. -/
theorem State.QueueInv.fewer {s t : State} (h : s.QueueInv) (hq : t.seq.queue.Sublist s.seq.queue)
    (ha : t.seq.active = none ∨ t.seq.active.map (·.handle) = s.seq.active.map (·.handle))
    (hn : t.seq.nextHandle = s.seq.nextHandle) (hc : t.ctl.mode = s.ctl.mode) : t.QueueInv := by
  obtain ⟨hmode, hlen, hnodup, hrange, hnext, hqueued⟩ := h
  have hsub : t.handlesInUse.Sublist s.handlesInUse := by
    rw [State.handlesInUse_eq, State.handlesInUse_eq]
    refine (hq.map _).append ?_
    rcases ha with ha | ha
    · rw [ha]; exact List.nil_sublist _
    · rw [ha]
  refine ⟨fun hsome => ?_, hq.length_le.trans hlen, hnodup.sublist hsub, fun x hx => hrange x (hsub.subset hx),
    by rw [hn]; exact hnext, fun p hp => hqueued p (hq.subset hp)⟩
  rw [hc]
  refine hmode (hsome.imp (fun hs => ?_) fun hne hnil => ?_)
  · rcases ha with ha | ha
    · rw [ha] at hs; exact nomatch hs
    · have hmap := congrArg Option.isSome ha
      rw [Option.isSome_map, Option.isSome_map] at hmap
      rw [← hmap]; exact hs
  · rw [hnil] at hq
    exact hne (List.sublist_nil.1 hq)

/-- What is settled depends on the programs, the drive, the mode and the own claims alone. -/
theorem State.Settled.congr {s t : State} (h : s.Settled) (hseq : t.seq = s.seq) (hd : t.bay.drive = s.bay.drive)
    (hr : t.bay.report = s.bay.report) (hc : t.ctl = s.ctl) (ho : ∀ z, t.own z = s.own z)
    (hj : t.claims.job = s.claims.job) : t.Settled := by
  obtain ⟨hqueue, hstep, hdrive, hclaim⟩ := h
  refine ⟨hqueue.congr (by rw [hseq]) (by rw [hseq]) (by rw [hseq]) (by rw [hc]), by rw [hseq]; exact hstep, ?_, ?_⟩
  · unfold State.driveInv State.driving at hdrive ⊢
    rw [hseq, hd, hr, hc]
    exact hdrive
  · unfold State.claimInv at hclaim ⊢
    simp only [hseq, hj, ho]
    exact hclaim

theorem State.Sound.congr {s t : State} (h : s.Sound) (hseq : t.seq = s.seq) (hd : t.bay.drive = s.bay.drive)
    (hr : t.bay.report = s.bay.report) (hc : t.ctl = s.ctl) (ho : ∀ z, t.own z = s.own z)
    (hj : t.claims.job = s.claims.job) : t.Sound :=
  ⟨h.toSettled.congr hseq hd hr hc ho hj, by rw [hseq]; exact h.taken⟩

/-- A settled unit with no program active drives nothing and claims nothing. -/
theorem State.Settled.at_rest {s : State} (h : s.Settled) (ha : s.seq.active = none) :
    s.bay.drive = none ∧ s.bay.report = none ∧ (∀ z, s.own z = .idle) ∧ s.claims.job = none := by
  obtain ⟨-, -, ⟨hdrive, hreport, -⟩, ⟨hzones, -, hjob, -⟩⟩ := h
  refine ⟨?_, ?_, fun z => ?_, ?_⟩
  · rw [Option.eq_none_iff_forall_ne_some]
    intro d hd
    obtain ⟨-, -, p, hp, -⟩ := hdrive d hd
    rw [ha] at hp
    exact nomatch hp
  · rw [← Option.not_isSome_iff_eq_none]
    intro hr
    obtain ⟨p, hp, -⟩ := s.driving_iff.1 (hreport hr).2
    rw [ha] at hp
    exact nomatch hp
  · by_contra hz
    obtain ⟨p, hp, -⟩ := hzones z hz
    rw [ha] at hp
    exact nomatch hp
  · rw [Option.eq_none_iff_forall_ne_some]
    intro l hl
    obtain ⟨p, hp, -⟩ := hjob l hl
    rw [ha] at hp
    exact nomatch hp

/-- Outside DRIVING there is neither a drive nor a report. -/
theorem State.Settled.undriven {s : State} (h : s.Settled) {p : Program} (ha : s.seq.active = some p)
    (hp : p.phase ≠ .driving) : s.bay.drive = none ∧ s.bay.report = none := by
  obtain ⟨-, -, ⟨hdrive, hreport, -⟩, -⟩ := h
  constructor
  · rw [Option.eq_none_iff_forall_ne_some]
    intro d hd
    obtain ⟨-, -, q, hq, hphase, -⟩ := hdrive d hd
    rw [ha] at hq
    exact hp (Option.some.inj hq ▸ hphase)
  · rw [← Option.not_isSome_iff_eq_none]
    intro hr
    obtain ⟨q, hq, hphase⟩ := s.driving_iff.1 (hreport hr).2
    rw [ha] at hq
    exact hp (Option.some.inj hq ▸ hphase)

theorem State.Settled.claimsFor {s : State} (h : s.Settled) {p : Program} (ha : s.seq.active = some p) : s.ClaimsFor p :=
  (State.claimInv_iff ha).1 h.claim

/-- A unit with no program active, nothing driven and nothing claimed is settled. -/
theorem State.Settled.of_rest {s : State} (hq : s.QueueInv) (ha : s.seq.active = none) (hd : s.bay.drive = none)
    (hr : s.bay.report = none) (ho : ∀ z, s.own z = .idle) (hj : s.claims.job = none) : s.Settled := by
  refine ⟨hq, fun p hp => ?_, State.driveInv_of_none hd hr fun p hp => ?_, State.claimInv_of_idle ha ho hj⟩
  · rw [ha] at hp; exact nomatch hp
  · rw [ha] at hp; exact nomatch hp

/-- A unit whose active program is not in DRIVING, with nothing driven and its claims in order, is settled. -/
theorem State.Settled.of_undriven {s : State} {p : Program} (hq : s.QueueInv) (ha : s.seq.active = some p) (hs : p.AtStep)
    (hp : p.phase ≠ .driving) (hd : s.bay.drive = none) (hr : s.bay.report = none) (hc : s.ClaimsFor p) : s.Settled := by
  refine ⟨hq, fun q hq' => ?_, State.driveInv_of_none hd hr fun q hq' => ?_, (State.claimInv_iff ha).2 hc⟩
  · rw [ha] at hq'; exact Option.some.inj hq' ▸ hs
  · rw [ha] at hq'; exact Option.some.inj hq' ▸ hp

/-! ### The active program's record changed -/

theorem State.mapActive_eq {s : State} {p : Program} (ha : s.seq.active = some p) (f : Program → Program) :
    s.mapActive f = s.withActive (f p) := by
  rw [State.mapActive, ha]
  rfl

theorem State.setPhase_eq {s : State} {p : Program} (ha : s.seq.active = some p) (ph : Phase) :
    s.setPhase ph = s.withActive { p with phase := ph } := State.mapActive_eq ha _

theorem State.QueueInv.withActive {s : State} (h : s.QueueInv) {p q : Program} (ha : s.seq.active = some p)
    (hq : q.handle = p.handle) : (s.withActive q).QueueInv := by
  refine h.congr rfl ?_ rfl rfl
  rw [ha]
  exact congrArg some hq

/-- A program's records that a change of its phase or its flags leaves as they are. -/
structure Program.SameWork (q p : Program) : Prop where
  handle : q.handle = p.handle
  steps : q.steps = p.steps
  zones : q.zones = p.zones

/-- A program in GUARD stays settled with another step, or another release time. -/
theorem State.Settled.guardAgain {s : State} (h : s.Settled) {p q : Program} (ha : s.seq.active = some p)
    (hp : p.phase.name = .guard) (hq : q.SameWork p) (hg : q.phase.name = .guard) (hs : q.AtStep) :
    (s.withActive q).Settled := by
  have hphase : ∀ {r : Program}, r.phase.name = .guard → r.phase ≠ .driving ∧ r.phase ≠ .claiming := by
    intro r hr
    constructor <;> intro heq <;> rw [heq] at hr <;> exact nomatch hr
  obtain ⟨hd, hr⟩ := h.undriven ha (hphase hp).1
  obtain ⟨hzones, hunheld, hjob, -, horder, hguard, -⟩ := h.claimsFor ha
  refine .of_undriven (h.queue.withActive ha hq.handle) rfl hs (hphase hg).1 hd hr
    ⟨fun z hz => hq.zones ▸ hzones z hz, fun z hz hh => absurd (hunheld z hz hh) (hphase hp).2,
      fun l hl => hq.zones ▸ hjob l hl, fun hc => absurd hc (hphase hg).2, ?_, fun _ => ?_,
      fun hc => absurd hc (hphase hg).1⟩
  · rw [hq.zones]; exact horder
  · rw [hq.zones]; exact hguard hp

/-- A flag of the active program changed, its phase, step and zones as they were: a pending stop may be set, not cleared. -/
theorem State.Settled.flagged {s : State} (h : s.Settled) {p q : Program} (ha : s.seq.active = some p) (hq : q.SameWork p)
    (hphase : q.phase = p.phase) (hstep : q.stepIndex = p.stepIndex)
    (hstop : q.pendingStop = none → p.pendingStop = none) : (s.withActive q).Settled := by
  obtain ⟨hqueue, hatStep, ⟨hdrive, hreport, hdriving⟩, -⟩ := id h
  obtain ⟨hzones, hunheld, hjob, hclaiming, horder, hguard, hheld⟩ := h.claimsFor ha
  have hsame : ∀ r, s.seq.active = some r → r = p := fun r hr => Option.some.inj (hr.symm.trans ha)
  have hdriven : (s.withActive q).driving = s.driving := by
    simp only [State.driving, State.withActive, ha, Option.map_some, hphase]
  refine ⟨hqueue.withActive ha hq.handle, fun r hr => ?_, ⟨fun d hd => ?_, ?_, ?_⟩,
    (State.claimInv_iff (p := q) rfl).2 ⟨?_, ?_, ?_, ?_, ?_, ?_, ?_⟩⟩
  · obtain rfl := Option.some.inj hr
    obtain ⟨h1, h2, h3, h4, h5⟩ := hatStep p ha
    exact ⟨hphase ▸ h1, hphase ▸ h2, hstep ▸ h3, by rw [hstep, hq.steps]; exact h4, by rw [hq.steps]; exact h5⟩
  · obtain ⟨hstopping, hrep, r, hr, hph, hhandle, hidx, hst⟩ := hdrive d hd
    obtain rfl := hsame r hr
    exact ⟨hstopping, hrep, q, rfl, hphase ▸ hph, hq.handle.trans hhandle, hstep.trans hidx, by
      rw [hq.steps, hstep]; exact hst⟩
  · rw [hdriven]; exact hreport
  · rw [hdriven]; exact hdriving
  · rw [hq.zones]; exact hzones
  · rw [hphase]; exact hunheld
  · rw [hq.zones]; exact hjob
  · rw [hphase, hq.zones]; exact hclaiming
  · rw [hq.zones]; exact horder
  · rw [hphase, hq.zones]; exact hguard
  · rw [hphase, hq.zones]; exact fun hd hn => hheld hd (hstop hn)

/-! ### The end of the active program -/

/-- Once the active program has ended, with nothing driven and no zone but its own claimed, the unit is settled. -/
theorem State.QueueInv.endActive {s : State} (h : s.QueueInv) {p : Program} (ha : s.seq.active = some p)
    (hd : s.bay.drive = none) (hr : s.bay.report = none) (ho : ∀ z, s.own z ≠ .idle → z ∈ p.zones) (e : EndStatus) :
    (s.endActive e).Settled := by
  obtain ⟨hseq, hown, -, hjob, -⟩ := State.endActive_ended ha e
  refine .of_rest (h.fewer (by rw [hseq]) (.inl (by rw [hseq])) (by rw [hseq]) (by simp)) (by rw [hseq]) (by simpa using hd)
    (by simpa using hr) (fun z => ?_) hjob
  rw [hown]
  split
  · rfl
  next hz => exact not_not.1 fun hne => hz (ho z hne)

theorem State.Settled.endActive {s : State} (h : s.Settled) {p : Program} (ha : s.seq.active = some p)
    (hp : p.phase ≠ .driving) (e : EndStatus) : (s.endActive e).Settled := by
  obtain ⟨hd, hr⟩ := h.undriven ha hp
  exact h.queue.endActive ha hd hr (h.claimsFor ha).zones e

@[simp] theorem State.endActive_queue (s : State) (e : EndStatus) : (s.endActive e).seq.queue = s.seq.queue := by
  cases ha : s.seq.active with
  | none => rw [State.endActive, ha]
  | some p =>
    obtain ⟨hseq, -⟩ := State.endActive_ended ha e
    rw [hseq]

/-! ### What a drive rests on -/

/-- A drive in the sense of R28, R90 and R152: its program is in DRIVING on that step, the evaluation permits the move, the
guard is satisfied, and every zone of the program is HELD. -/
def State.Energised (s : State) (d : DriveRecord) : Prop :=
  s.evaluate d.switch d.direction = .permit false ∧ (∀ x ∈ s.guardTimes d.switch, s.reached x = true) ∧
  ∃ p, s.seq.active = some p ∧ p.phase = .driving ∧ p.handle = d.handle ∧ p.stepIndex = d.step ∧
    p.steps[p.stepIndex - 1]? = some ⟨d.switch, d.direction⟩ ∧ ∀ z ∈ p.zones, (s.own z).isHeld = true

/-- Every drive there is rests on a permit. -/
def State.Permitted (s : State) : Prop := ∀ d, s.bay.drive = some d → s.Energised d

theorem State.permitted_of_none {s : State} (h : s.bay.drive = none) : s.Permitted := by
  intro d hd
  rw [h] at hd
  exact nomatch hd

/-- What an act of the sequencer leaves: a settled unit, the queue as it was, and no drive without a permit. -/
structure Acted (s t : State) : Prop where
  settled : t.Settled
  queue : t.seq.queue = s.seq.queue
  permitted : t.Permitted

/-- A program that ends outside DRIVING leaves nothing driven. -/
theorem State.Settled.endActive_acted {s : State} (h : s.Settled) {p : Program} (ha : s.seq.active = some p)
    (hp : p.phase ≠ .driving) (e : EndStatus) : Acted s (s.endActive e) := by
  refine ⟨h.endActive ha hp e, s.endActive_queue e, State.permitted_of_none ?_⟩
  obtain ⟨hd, -⟩ := h.undriven ha hp
  simpa using hd

/-- The extra conditions read the image, the model and the clock. -/
theorem State.checkConditions_congr {s t : State} (hi : t.image = s.image) (hc : t.ctl = s.ctl) (hm : t.micros = s.micros)
    (l : List Condition) : ∀ i, t.checkConditions i l = s.checkConditions i l := by
  have hfails : ∀ c, t.conditionFails c = s.conditionFails c := by
    intro c
    cases s
    cases t
    cases hi
    cases hc
    cases hm
    rfl
  induction l with
  | nil => exact fun _ => rfl
  | cons c rest ih => intro i; simp only [State.checkConditions, hfails, ih]

/-- An evaluation reads the image, the model and the clock. -/
theorem State.evaluate_congr {s t : State} (hi : t.image = s.image) (hc : t.ctl = s.ctl) (hm : t.micros = s.micros)
    (id : Nat) (tg : Target) : t.evaluate id tg = s.evaluate id tg := by
  have hconds := State.checkConditions_congr hi hc hm
  unfold State.evaluate State.laterChecks
  simp only [hconds]
  cases s
  cases t
  cases hi
  cases hc
  cases hm
  rfl

/-- The guard's times are those of the switch's completion, its settings and the zones' movements. -/
theorem State.guardTimes_congr {s t : State} {id : Nat}
    (hp : (t.localPoint? id).bind (·.completion) = (s.localPoint? id).bind (·.completion)) (hi : t.image = s.image)
    (hc : t.ctl = s.ctl) : t.guardTimes id = s.guardTimes id := by
  unfold State.guardTimes State.recovery State.move? State.params
  rw [hp, hi, hc]

theorem State.guardRelease_eq_none {s : State} {id : Nat} (h : s.guardRelease id = none) :
    ∀ x ∈ s.guardTimes id, s.reached x = true := by
  unfold State.guardRelease at h
  split at h
  next hnil => rw [hnil]; exact nofun
  next t ts hts =>
    split at h
    next hall => rw [hts]; exact List.all_eq_true.1 hall
    · exact nomatch h

/-- A local point looked up in a table with one point's record changed. -/
theorem State.localPoint_mapPoint (s : State) (id : Nat) {f : LocalPoint → LocalPoint} (hf : ∀ p, (f p).id = p.id) (n : Nat) :
    (s.mapPoint id f).localPoint? n = (s.localPoint? n).map fun p => if n = id then f p else p :=
  find_modify_key LocalPoint.id id f hf s.bay.points n

/-! ### Drives and their ends -/

theorem State.ClaimsFor.congr {s t : State} {p : Program} (h : s.ClaimsFor p) (ho : ∀ z, t.own z = s.own z)
    (hj : t.claims.job = s.claims.job) : t.ClaimsFor p := by
  obtain ⟨hzones, hunheld, hjob, hclaiming, horder, hguard, hdriving⟩ := h
  constructor <;> simpa only [ho, hj]

/-- A program in DRIVING has its drive, or the report of its drive's end. -/
theorem State.Settled.of_driving {s : State} {p : Program} (hq : s.QueueInv) (ha : s.seq.active = some p) (hs : p.AtStep)
    (hp : p.phase = .driving) (hstop : s.ctl.stopping = none) (hc : s.ClaimsFor p)
    (hd : s.bay.drive = none ∧ s.bay.report.isSome = true ∨ s.bay.report = none ∧ ∃ d, s.bay.drive = some d ∧
      p.handle = d.handle ∧ p.stepIndex = d.step ∧ p.steps[p.stepIndex - 1]? = some ⟨d.switch, d.direction⟩) :
    s.Settled := by
  refine ⟨hq, fun q hq' => ?_, ⟨fun d hdrive => ?_, fun _ => ⟨hstop, s.driving_iff.2 ⟨p, ha, hp⟩⟩, fun _ _ => ?_⟩,
    (State.claimInv_iff ha).2 hc⟩
  · rw [ha] at hq'; exact Option.some.inj hq' ▸ hs
  · rcases hd with ⟨hnone, -⟩ | ⟨hrep, d', hd', hwork⟩
    · rw [hnone] at hdrive; exact nomatch hdrive
    · obtain rfl := Option.some.inj (hd'.symm.trans hdrive)
      exact ⟨hstop, hrep, p, ha, hp, hwork⟩
  · rcases hd with ⟨-, hrep⟩ | ⟨-, d, hd', -⟩
    · exact .inr hrep
    · rw [hd']; exact .inl rfl

/-- A failed drive leaves its report and no drive. -/
theorem State.failSwitch_order (s : State) (kind : FaultKind) (id : Nat) (o : Nat × Nat) :
    (s.failSwitch kind id (some o)).bay.drive = none ∧ (s.failSwitch kind id (some o)).bay.report = some (.failed kind) := by
  rw [State.failSwitch_eq]
  have hbay : ((s.afterFailure kind id (some o)).handOver id).bay = (s.afterFailure kind id (some o)).bay := by simp
  rw [hbay]
  exact ⟨rfl, rfl⟩

/-- A stuck switch leaves the drive and the report alone. -/
theorem State.failSwitch_stuck (s : State) (kind : FaultKind) (id : Nat) :
    (s.failSwitch kind id none).bay.drive = s.bay.drive ∧ (s.failSwitch kind id none).bay.report = s.bay.report := by
  rw [State.failSwitch_eq]
  have hbay : ((s.afterFailure kind id none).handOver id).bay = (s.afterFailure kind id none).bay := by simp
  rw [hbay]
  exact ⟨rfl, rfl⟩

/-- The active program's record as its drive begins (R152). -/
def Program.driven (p : Program) : Program := { p with phase := .driving, pendingStop := none, pendingYield := none }

theorem State.beginDrive_eq {s : State} {p : Program} (ha : s.seq.active = some p) (st : Step) :
    s.beginDrive st = (s.withActive p.driven).driveOrder st.switch st.target p.handle p.stepIndex := by
  rw [State.beginDrive, State.mapActive_eq ha, State.activeHandle, State.stepIndex, ha]
  rfl

/-- A drive order given on a permit, with the guard satisfied: the drive rests on both, or has failed at once. -/
theorem State.Settled.beginDrive {s : State} (h : s.Settled) {p : Program} {st : Step} (ha : s.seq.active = some p)
    (hg : p.phase.name = .guard) (hst : p.steps[p.stepIndex - 1]? = some st) (hstop : s.ctl.stopping = none)
    (hrel : s.guardRelease st.switch = none) (heval : s.evaluate st.switch st.target = .permit false) :
    Acted s (s.beginDrive st) := by
  have hphase : p.phase ≠ .driving ∧ p.phase ≠ .claiming := by
    constructor <;> intro heq <;> rw [heq] at hg <;> exact nomatch hg
  obtain ⟨-, hr⟩ := h.undriven ha hphase.1
  obtain ⟨hzones, hunheld, hjob, -, horder, hguard, -⟩ := h.claimsFor ha
  obtain ⟨-, -, hfirst, hlast, hlen⟩ := h.step p ha
  have hq : (s.withActive p.driven).QueueInv := h.queue.withActive ha rfl
  have hs : p.driven.AtStep := ⟨nofun, nofun, hfirst, hlast, hlen⟩
  have hc : (s.withActive p.driven).ClaimsFor p.driven :=
    ⟨hzones, fun z hz hh => absurd (hunheld z hz hh) hphase.2, hjob, nofun, horder, nofun, fun _ _ => hguard hg⟩
  rw [State.beginDrive_eq ha, State.driveOrder]
  split
  case isTrue =>
    refine ⟨.of_driving (hq.congr rfl rfl rfl rfl) rfl hs rfl hstop (hc.congr (fun _ => rfl) rfl)
      (.inr ⟨hr, _, rfl, rfl, rfl, hst⟩), rfl, fun d hd => ?_⟩
    obtain rfl := Option.some.inj hd
    refine ⟨?_, ?_, p.driven, rfl, rfl, rfl, rfl, hst, hguard hg⟩
    · rw [State.evaluate_congr (s := s) (by rfl) (by rfl) (by rfl)]
      exact heval
    rw [State.guardTimes_congr (s := s) ?_ (by rfl) (by rfl)]
    · exact State.guardRelease_eq_none hrel
    · have hpoint := State.localPoint_mapPoint s st.switch (f := fun q => { q with stuck := none }) (fun _ => rfl) st.switch
      refine (congrArg (·.bind (·.completion)) hpoint).trans ?_
      cases s.localPoint? st.switch with
      | none => rfl
      | some q => simp
  case isFalse =>
    have hfail := (s.withActive p.driven).failSwitch_order .badPosition st.switch (p.handle, p.stepIndex)
    have hframe := (s.withActive p.driven).failSwitch_frame .badPosition st.switch (some (p.handle, p.stepIndex))
    generalize (s.withActive p.driven).failSwitch .badPosition st.switch (some (p.handle, p.stepIndex)) = t at hfail hframe ⊢
    obtain ⟨hdrive, hreport⟩ := hfail
    have hseq : t.seq = (s.withActive p.driven).seq := by simp [hframe]
    have hctl : t.ctl = s.ctl := by simp [hframe, State.withActive]
    have hclaims : t.claims = s.claims := by simp [hframe, State.withActive]
    refine ⟨.of_driving (hq.congr (by rw [hseq]) (by rw [hseq]) (by rw [hseq]) (by rw [hctl]; rfl)) (by rw [hseq]; rfl) hs rfl
      (by rw [hctl]; exact hstop) (hc.congr (State.own_congr hclaims) (by rw [hclaims]; rfl))
      (.inl ⟨hdrive, by rw [hreport]; rfl⟩), by rw [hseq]; rfl, State.permitted_of_none hdrive⟩

end Sys2Proof.Machine
end

section
/-! PROOFS. The sequencer's acts on a settled unit: guards, take-up, give-backs, step ends and stops (R148 to R161). -/
namespace Sys2Proof.Machine

/-! ### The guard and the steps that follow (R150 to R156) -/

theorem Acted.trans {s t u : State} (h : Acted s t) (h' : Acted t u) : Acted s u :=
  ⟨h'.settled, h'.queue.trans h.queue, h'.permitted⟩

/-- A settled unit whose active program is outside DRIVING drives nothing. -/
theorem Acted.of_undriven {s t : State} {p : Program} (ht : t.Settled) (ha : t.seq.active = some p) (hp : p.phase ≠ .driving)
    (hq : t.seq.queue = s.seq.queue) : Acted s t := ⟨ht, hq, State.permitted_of_none (ht.undriven ha hp).1⟩

theorem State.Settled.event {s : State} (h : s.Settled) (b : EventBody) : (s.event b).Settled :=
  h.congr (by simp) (by simp) (by simp) (by simp) (State.own_congr (by simp)) (by simp)

theorem Phase.name_eq_guard {ph : Phase} : ph.name = .guard ↔ ∃ r d, ph = .guard r d := by
  cases ph with
  | guard r d => exact ⟨fun _ => ⟨r, d, rfl⟩, fun _ => rfl⟩
  | queued | claiming | driving | finished => exact ⟨nofun, fun ⟨_, _, h⟩ => nomatch h⟩

theorem Phase.not_of_guard {ph : Phase} (h : ph.name = .guard) : ph ≠ .driving ∧ ph ≠ .claiming := by
  constructor <;> intro heq <;> rw [heq] at h <;> exact nomatch h

/-- The first of the steps left is the step in hand, the others are those after it. -/
theorem getElem_of_drop_pred {α : Type} {l rest : List α} {x : α} {i : Nat} (hi : 1 ≤ i) (h : l.drop (i - 1) = x :: rest) :
    l[i - 1]? = some x ∧ l.drop i = rest := by
  constructor
  · have hhead : (l.drop (i - 1))[0]? = some x := by rw [h]; rfl
    rwa [List.getElem?_drop, Nat.add_zero] at hhead
  · have htail : (l.drop (i - 1)).drop 1 = rest := by rw [h]; rfl
    rwa [List.drop_drop, Nat.sub_add_cancel hi] at htail

theorem Program.AtStep.of_guard {p : Program} (hg : p.phase.name = .guard) (h1 : 1 ≤ p.stepIndex)
    (h2 : p.stepIndex ≤ p.steps.length) (h3 : p.steps.length ≤ 8) : p.AtStep := by
  refine ⟨?_, ?_, h1, h2, h3⟩ <;> intro heq <;> rw [heq] at hg <;> exact nomatch hg

/-- A program in GUARD enters it again, with times of its own. -/
theorem State.Settled.reenterGuard {s : State} (h : s.Settled) {p : Program} (ha : s.seq.active = some p)
    (hg : p.phase.name = .guard) (r d : Time) : (s.withActive { p with phase := .guard r d }).Settled := by
  obtain ⟨-, -, h1, h2, h3⟩ := h.step p ha
  exact h.guardAgain ha hg ⟨rfl, rfl, rfl⟩ rfl (.of_guard rfl h1 h2 h3)

/-- A program in GUARD goes on to its next step. -/
theorem State.Settled.advance {s : State} (h : s.Settled) {p : Program} (ha : s.seq.active = some p)
    (hg : p.phase.name = .guard) (hmore : p.stepIndex + 1 ≤ p.steps.length) :
    (s.withActive { p with stepIndex := p.stepIndex + 1 }).Settled :=
  h.guardAgain ha hg ⟨rfl, rfl, rfl⟩ hg (.of_guard hg (Nat.le_add_left 1 _) hmore (h.step p ha).length)

/-- From the test of a guard on: the unit stays settled, and a drive begins on a permit alone (R150, R152, R153). -/
theorem State.Settled.runSteps (l : List Step) : ∀ {s : State} {p : Program}, s.Settled → s.seq.active = some p →
    p.phase.name = .guard → p.steps.drop (p.stepIndex - 1) = l → s.ctl.stopping = none → Acted s (runSteps l s) := by
  induction l with
  | nil => exact fun h ha hg _ _ => .of_undriven h ha (Phase.not_of_guard hg).1 rfl
  | cons st rest ih =>
    intro s p h ha hg hdrop hstop
    obtain ⟨-, -, hfirst, hlast, hlen⟩ := h.step p ha
    obtain ⟨hst, hrest⟩ := getElem_of_drop_pred hfirst hdrop
    unfold Machine.runSteps
    split
    case h_1 t hrel =>
      obtain ⟨r, d, hphase⟩ := Phase.name_eq_guard.1 hg
      rw [State.mapActive_eq ha, hphase]
      exact .of_undriven (h.reenterGuard ha hg t d) rfl nofun rfl
    case h_2 hrel =>
      split
      case h_1 heval => exact h.beginDrive ha hg hst hstop hrel heval
      case h_2 r heval => exact h.endActive_acted ha (Phase.not_of_guard hg).1 _
      case h_3 heval =>
        have hs1 := h.event (.stepComplete s.activeHandle s.stepIndex st.switch .already)
        have ha1 : (s.event (.stepComplete s.activeHandle s.stepIndex st.switch .already)).seq = s.seq := by simp
        have hstop1 : (s.event (.stepComplete s.activeHandle s.stepIndex st.switch .already)).ctl = s.ctl := by simp
        generalize s.event (.stepComplete s.activeHandle s.stepIndex st.switch .already) = s1 at hs1 ha1 hstop1 ⊢
        have hact : Acted s s1 := .of_undriven hs1 (by rw [ha1]; exact ha) (Phase.not_of_guard hg).1 (by rw [ha1])
        refine hact.trans ?_
        rw [← ha1] at ha
        cases rest with
        | nil => exact hs1.endActive_acted ha (Phase.not_of_guard hg).1 _
        | cons nxt more =>
          have hmore : p.stepIndex + 1 ≤ p.steps.length := by
            have hlt := congrArg List.length hrest
            rw [List.length_drop, List.length_cons] at hlt
            omega
          have hs2 := hs1.advance ha hg hmore
          dsimp only
          rw [State.mapActive_eq ha]
          generalize hq : { p with stepIndex := p.stepIndex + 1 } = q at hs2 ⊢
          have hqg : q.phase.name = .guard := by rw [← hq]; exact hg
          have hqd : q.steps.drop (q.stepIndex - 1) = nxt :: more := by rw [← hq]; exact hrest
          have hstop2 : s1.ctl.stopping = none := by rw [hstop1]; exact hstop
          have hact2 : Acted s1 (s1.withActive q) := .of_undriven hs2 rfl (Phase.not_of_guard hqg).1 rfl
          refine hact2.trans ?_
          split
          case h_1 r hrefuse => exact hs2.endActive_acted rfl (Phase.not_of_guard hqg).1 _
          case h_2 hpermit =>
            rw [State.setPhase_eq rfl]
            have hs3 := hs2.reenterGuard rfl hqg (s1.withActive q).now (s1.withActive q).guardDeadline
            have hact3 : Acted (s1.withActive q) _ := .of_undriven hs3 rfl nofun rfl
            exact hact3.trans (ih hs3 rfl rfl hqd hstop2)

theorem State.Settled.testGuard {s : State} (h : s.Settled) {p : Program} (ha : s.seq.active = some p)
    (hg : p.phase.name = .guard) (hstop : s.ctl.stopping = none) : Acted s s.testGuard := by
  refine h.runSteps _ ha hg ?_ hstop
  rw [State.stepsLeft, ha]

/-- A program that holds every zone it names enters GUARD (R149, R150). -/
theorem State.QueueInv.enterGuard {s : State} (hq : s.QueueInv) {p : Program} (ha : s.seq.active = some p)
    (h1 : 1 ≤ p.stepIndex) (h2 : p.stepIndex ≤ p.steps.length) (h3 : p.steps.length ≤ 8) (hd : s.bay.drive = none)
    (hr : s.bay.report = none) (hstop : s.ctl.stopping = none) (hzones : ∀ z, s.own z ≠ .idle → z ∈ p.zones)
    (hheld : ∀ z ∈ p.zones, (s.own z).isHeld = true) (hjob : ∀ l, s.claims.job = some l → l = p.zones) :
    Acted s s.enterGuard := by
  rw [State.enterGuard, State.setPhase_eq ha]
  have hs : (s.withActive { p with phase := .guard s.now s.guardDeadline }).Settled := by
    refine .of_undriven (hq.withActive ha rfl) rfl (.of_guard rfl h1 h2 h3) nofun hd hr
      ⟨hzones, fun z hz hh => ?_, hjob, nofun, fun z hz _ y hy => hheld y (List.takeWhile_subset _ hy), fun _ => hheld, nofun⟩
    exact nomatch hh.symm.trans (hheld z (hzones z hz))
  have hact : Acted s _ := .of_undriven hs rfl nofun rfl
  exact hact.trans (hs.testGuard rfl rfl hstop)

/-! ### Claiming (R127, R149) -/

theorem State.own_askZone (s : State) (z y : Nat) :
    (s.askZone z).own y = if y = z ∧ (s.zone? z).isSome = true then s.askingNow else s.own y := by
  have hclaims : (s.askZone z).claims = (s.setOwn z s.askingNow).claims := by
    rw [State.askZone_eq, State.asks, ← State.setOwn_eq]
    simp
  rw [State.own_congr hclaims, State.own_setOwn]

theorem State.job_askZone (s : State) (z : Nat) : (s.askZone z).claims.job = s.claims.job := by
  rw [State.askZone_eq, State.asks]
  simp [State.ownSet]

/-- After a claim order with nothing claimed before, the first zone alone may be claimed. -/
theorem State.own_claimOrder {s : State} (ho : ∀ z, s.own z = .idle) (zones : List Nat) {z : Nat}
    (hz : (s.claimOrder zones).own z ≠ .idle) : zones.head? = some z := by
  cases zones with
  | nil => exact absurd (ho z) hz
  | cons low rest =>
    rw [State.claimOrder] at hz
    rw [State.own_askZone] at hz
    split at hz
    next h => rw [h.1]; rfl
    · exact absurd (ho z) hz

/-- A program in CLAIMING that has asked for its lowest zone alone is settled. -/
theorem State.Settled.of_claiming {s : State} {p : Program} (hq : s.QueueInv) (ha : s.seq.active = some p) (hs : p.AtStep)
    (hp : p.phase = .claiming) (hd : s.bay.drive = none) (hr : s.bay.report = none) (hj : s.claims.job = some p.zones)
    (ho : ∀ z, s.own z ≠ .idle → p.zones.head? = some z) : s.Settled := by
  refine .of_undriven hq ha hs (by rw [hp]; exact nofun) hd hr
    ⟨fun z hz => List.mem_of_mem_head? (ho z hz), fun _ _ _ => hp, fun l hl => ?_, fun _ => hj, fun z _ hz y hy => ?_, ?_, ?_⟩
  · rw [hj] at hl; exact (Option.some.inj hl).symm
  · have hhead := ho z hz
    cases hzones : p.zones with
    | nil => rw [hzones] at hhead; exact nomatch hhead
    | cons low rest =>
      rw [hzones] at hhead hy
      obtain rfl := Option.some.inj hhead
      simp at hy
  · rw [hp]; exact nofun
  · rw [hp]; exact nofun

/-- A program whose first step is permitted, with nothing claimed: GUARD without zones, CLAIMING with them (R148, R149). -/
theorem State.QueueInv.startClaiming {s : State} (hq : s.QueueInv) {p : Program} (ha : s.seq.active = some p)
    (h1 : 1 ≤ p.stepIndex) (h2 : p.stepIndex ≤ p.steps.length) (h3 : p.steps.length ≤ 8) (hd : s.bay.drive = none)
    (hr : s.bay.report = none) (hstop : s.ctl.stopping = none) (ho : ∀ z, s.own z = .idle) (hj : s.claims.job = none) :
    Acted s (s.startClaiming p.zones) := by
  rw [State.startClaiming]
  split
  case isTrue hnil =>
    refine hq.enterGuard ha h1 h2 h3 hd hr hstop (fun z hz => absurd (ho z) hz) (fun z hz => ?_) fun l hl => ?_
    · rw [hnil] at hz; exact nomatch hz
    · rw [hj] at hl; exact nomatch hl
  case isFalse hne =>
    rw [State.mapActive_eq ha]
    have hown : ∀ z, (s.withActive { p with phase := .claiming, claimStart := some s.now }).own z = .idle := ho
    generalize hq1 : { p with phase := .claiming, claimStart := some s.now } = q at hown ⊢
    have hphase : q.phase = .claiming := by rw [← hq1]
    have hstep : q.AtStep := by rw [← hq1]; exact ⟨nofun, nofun, h1, h2, h3⟩
    have hzones : q.zones = p.zones := by rw [← hq1]
    have hact : (s.withActive q).QueueInv := hq.withActive ha (by rw [← hq1])
    rw [← hzones]
    refine .of_undriven (p := q) (.of_claiming (hact.congr ?_ ?_ ?_ ?_) ?_ hstep hphase ?_ ?_
      ((s.withActive q).claimOrder_claims _).1 fun z hz => State.own_claimOrder hown _ hz) ?_ (by rw [hphase]; exact nofun) ?_
    all_goals simp [State.withActive, hd, hr]

/-- The head of the queue becomes the active program, with nothing driven and nothing claimed (R148). -/
theorem State.QueueInv.takenUp {s : State} (h : s.QueueInv) {p : Program} {rest : List Program}
    (ha : s.seq.active = none) (hqueue : s.seq.queue = p :: rest) :
    (s.setSeq { s.seq with queue := rest, active := some { p with stepIndex := 1 } }).QueueInv := by
  obtain ⟨hmode, hlen, hnodup, hrange, hnext, hqueued⟩ := h
  have huse : s.handlesInUse.Perm
      (s.setSeq { s.seq with queue := rest, active := some { p with stepIndex := 1 } }).handlesInUse := by
    rw [State.handlesInUse_eq, State.handlesInUse_eq, hqueue, ha]
    simp only [State.setSeq_seq, Option.map_none, Option.toList_none, List.append_nil, Option.map_some, Option.toList_some,
      List.map_cons]
    exact (List.perm_append_singleton _ _).symm
  refine ⟨fun _ => hmode (.inr (by rw [hqueue]; exact List.cons_ne_nil _ _)), ?_, huse.nodup_iff.1 hnodup,
    fun x hx => hrange x (huse.mem_iff.2 hx), hnext, fun q hq => hqueued q (by rw [hqueue]; exact List.mem_cons_of_mem _ hq)⟩
  rw [hqueue, List.length_cons] at hlen
  exact Nat.le_of_succ_le hlen

/-- The head of the queue taken up (R148). -/
theorem State.Settled.takeUpOne {s : State} (h : s.Settled) {p : Program} {rest : List Program} (ha : s.seq.active = none)
    (hqueue : s.seq.queue = p :: rest) (hstop : s.ctl.stopping = none) :
    (s.takeUpOne p rest).Settled ∧ (s.takeUpOne p rest).seq.queue = rest ∧ (s.takeUpOne p rest).Permitted := by
  obtain ⟨hd, hr, ho, hj⟩ := h.at_rest ha
  have hq := h.queue.takenUp ha hqueue
  obtain ⟨-, -, hsome, hlen⟩ := h.queue.queued p (by rw [hqueue]; exact List.mem_cons_self)
  have hend : ∀ e, ((s.setSeq { s.seq with queue := rest, active := some { p with stepIndex := 1 } }).endActive e).Permitted :=
    fun e => State.permitted_of_none (by simpa using hd)
  rw [State.takeUpOne]
  split
  case h_1 hnil => rw [hnil] at hsome; exact absurd hsome (by decide)
  case h_2 st more hsteps =>
    dsimp only
    split
    case h_1 r hrefuse =>
      exact ⟨hq.endActive rfl hd hr (fun z hz => absurd (ho z) hz) _, State.endActive_queue _ _, hend _⟩
    case h_2 hpermit =>
      obtain ⟨hsettled, hqueue', hpermitted⟩ :=
        hq.startClaiming (p := { p with stepIndex := 1 }) rfl (Nat.le_refl 1) hsome hlen hd hr hstop ho hj
      exact ⟨hsettled, hqueue', hpermitted⟩

/-- Take-up leaves no program waiting with none active, and begins no drive without a permit (R148, R162). -/
theorem State.Settled.takeUp (l : List Program) : ∀ {s : State}, s.Settled → (s.seq.active = none → s.seq.queue = l) →
    s.ctl.stopping = none → (takeUp l s).Sound ∧ (s.Permitted → (takeUp l s).Permitted) := by
  induction l with
  | nil => exact fun h hqueue _ => ⟨⟨h, hqueue⟩, id⟩
  | cons p rest ih =>
    intro s h hqueue hstop
    rw [Machine.takeUp]
    split
    case isTrue hsome => exact ⟨⟨h, fun hnone => by rw [hnone] at hsome; exact nomatch hsome⟩, id⟩
    case isFalse hnone =>
      rw [Option.not_isSome_iff_eq_none] at hnone
      obtain ⟨hsettled, hrest, hpermitted⟩ := h.takeUpOne hnone (hqueue hnone) hstop
      obtain ⟨hsound, hperm⟩ := ih hsettled (fun _ => hrest) (by simpa using hstop)
      exact ⟨hsound, fun _ => hperm hpermitted⟩

theorem State.Settled.takeUpNext {s : State} (h : s.Settled) (hstop : s.ctl.stopping = none) :
    s.takeUpNext.Sound ∧ (s.Permitted → s.takeUpNext.Permitted) := h.takeUp _ (fun _ => rfl) hstop

/-! ### Whole acts -/

/-- What a whole act of the unit leaves: a sound unit, and no new drive but one on a permit. -/
structure Ordered (s t : State) : Prop where
  sound : t.Sound
  permitted : s.bay.drive = none → t.Permitted

theorem State.Sound.ordered {s : State} (h : s.Sound) : Ordered s s := ⟨h, State.permitted_of_none⟩

/-- An act of the sequencer, and the take-up that follows it. -/
theorem Acted.takeUpNext {s t : State} (h : Acted s t) (hstop : t.ctl.stopping = none) : Ordered s t.takeUpNext := by
  obtain ⟨hsound, hperm⟩ := h.settled.takeUpNext hstop
  exact ⟨hsound, fun _ => hperm h.permitted⟩

/-- An act that leaves the drive alone, and the take-up that follows it. -/
theorem State.Settled.ordered_takeUpNext {s t : State} (h : t.Settled) (hd : t.bay.drive = s.bay.drive)
    (hstop : t.ctl.stopping = none) : Ordered s t.takeUpNext := by
  obtain ⟨hsound, hperm⟩ := h.takeUpNext hstop
  exact ⟨hsound, fun hnone => hperm (State.permitted_of_none (hd.trans hnone))⟩

/-- A program is active, at one of its steps, with nothing driven and its claims in order, no orderly stop under way:
the unit in which a program's act other than a drive takes place. -/
structure State.Undriven (s : State) (p : Program) : Prop where
  queue : s.QueueInv
  active : s.seq.active = some p
  step : p.AtStep
  drive : s.bay.drive = none
  report : s.bay.report = none
  stopping : s.ctl.stopping = none
  claims : s.ClaimsFor p

theorem State.Settled.toUndriven {s : State} (h : s.Settled) {p : Program} (ha : s.seq.active = some p)
    (hp : p.phase ≠ .driving) (hstop : s.ctl.stopping = none) : s.Undriven p := by
  obtain ⟨hd, hr⟩ := h.undriven ha hp
  exact ⟨h.queue, ha, h.step p ha, hd, hr, hstop, h.claimsFor ha⟩

theorem State.Undriven.event {s : State} {p : Program} (h : s.Undriven p) (b : EventBody) : (s.event b).Undriven p := by
  obtain ⟨hq, ha, hs, hd, hr, hstop, hc⟩ := h
  exact ⟨hq.congr (by simp) (by simp) (by simp) (by simp), by simpa using ha, hs, by simpa using hd, by simpa using hr,
    by simpa using hstop, hc.congr (State.own_congr (by simp)) (by simp)⟩

/-- The end of the active program, and the take-up that follows it (R162). -/
theorem State.Undriven.finish {s : State} {p : Program} (h : s.Undriven p) (e : EndStatus) : Ordered s (s.finish e) := by
  obtain ⟨hq, ha, -, hd, hr, hstop, hc⟩ := h
  have hact : Acted s (s.endActive e) :=
    ⟨hq.endActive ha hd hr hc.zones e, s.endActive_queue e, State.permitted_of_none (by simpa using hd)⟩
  exact hact.takeUpNext (by simpa using hstop)

/-! ### Give-backs and step ends (R136, R155, R156, R161) -/

/-- A give-back leaves a program in CLAIMING that has asked for its lowest zone. -/
theorem State.Undriven.giveBack {s : State} {p : Program} (h : s.Undriven p) (cause : YieldCause) (y : YieldFrom) :
    (s.giveBack cause y).Undriven { p with phase := .claiming } ∧ (s.giveBack cause y).Settled := by
  obtain ⟨hq, ha, ⟨-, -, h1, h2, h3⟩, hd, hr, hstop, hc⟩ := h
  obtain ⟨hseq, -, -, hjob, -⟩ := State.giveBack_given ha cause y
  have hidle : ∀ z, ((State.dropZones p.zones s).event (.claimYielded y.zone cause y.unit p.handle)).own z = .idle := by
    intro z
    rw [State.own_congr (t := State.dropZones p.zones s) (by simp), State.own_dropZones]
    split
    · rfl
    next hz => exact not_not.1 fun hne => hz (hc.zones z hne)
  have hown : ∀ z, (s.giveBack cause y).own z ≠ .idle → p.zones.head? = some z := by
    intro z hz
    rw [State.giveBack, ha] at hz
    refine State.own_claimOrder hidle p.zones (z := z) fun heq => hz ?_
    rw [← heq]
    exact State.own_congr (by simp) z
  have hactive : (s.giveBack cause y).seq.active = some { p with phase := .claiming } := by rw [hseq]
  have hsettled : (s.giveBack cause y).Settled :=
    .of_claiming (p := { p with phase := .claiming }) (hq.congr (by rw [hseq]) (by rw [hseq, ha]; rfl) (by rw [hseq]) (by simp))
      hactive ⟨nofun, nofun, h1, h2, h3⟩ rfl (by simpa using hd) (by simpa using hr) hjob hown
  exact ⟨hsettled.toUndriven hactive nofun (by simpa using hstop), hsettled⟩

/-- A unit with a program outside DRIVING, in itself. -/
theorem State.Undriven.ordered {s t : State} {p : Program} (h : t.Undriven p) (ht : t.Settled) : Ordered s t := by
  refine ⟨⟨ht, fun hnone => ?_⟩, fun _ => State.permitted_of_none h.drive⟩
  rw [h.active] at hnone
  exact nomatch hnone

/-- A give-back, and the end of a program whose patience is over (R161). -/
theorem State.Undriven.yieldZones {s : State} {p : Program} (h : s.Undriven p) (cause : YieldCause) (y : YieldFrom) :
    Ordered s (s.yieldZones cause y) := by
  obtain ⟨hgiven, hsettled⟩ := h.giveBack cause y
  rw [State.yieldZones]
  split
  · obtain ⟨hsound, hperm⟩ := hgiven.finish (claimTimeoutEnd (s.giveBack cause y).stepIndex)
    exact ⟨hsound, fun _ => hperm hgiven.drive⟩
  · exact hgiven.ordered hsettled

/-- A program that holds every zone it names enters GUARD, and drives on a permit alone. -/
theorem State.Undriven.enterGuard {s : State} {p : Program} (h : s.Undriven p)
    (hheld : ∀ z ∈ p.zones, (s.own z).isHeld = true) : Ordered s s.enterGuard.takeUpNext := by
  obtain ⟨hq, ha, ⟨-, -, h1, h2, h3⟩, hd, hr, hstop, hc⟩ := h
  exact (hq.enterGuard ha h1 h2 h3 hd hr hstop hc.zones hheld hc.job).takeUpNext (by simpa using hstop)

/-- The step after a completed one (R156). -/
theorem State.Undriven.nextStep {s : State} {p : Program} (h : s.Undriven p) (hmore : p.stepIndex + 1 ≤ p.steps.length)
    (hheld : ∀ z ∈ p.zones, (s.own z).isHeld = true) (yield : Option YieldFrom) : Ordered s (s.nextStep yield) := by
  obtain ⟨hq, ha, ⟨hqueued, hfinished, -, -, h3⟩, hd, hr, hstop, hzones, hunheld, hjob, hclaiming, horder, -, -⟩ := h
  have hnext : (s.withActive { p.clearFlags with stepIndex := p.stepIndex + 1 }).Undriven
      { p.clearFlags with stepIndex := p.stepIndex + 1 } :=
    ⟨hq.withActive ha rfl, rfl, ⟨hqueued, hfinished, Nat.le_add_left 1 _, hmore, h3⟩, hd, hr, hstop,
      ⟨hzones, hunheld, hjob, hclaiming, horder, fun _ => hheld, fun _ _ => hheld⟩⟩
  unfold State.nextStep
  rw [State.mapActive_eq ha]
  have hleft : (s.withActive { p.clearFlags with stepIndex := p.stepIndex + 1 }).stepsLeft = p.steps.drop p.stepIndex := rfl
  have hheld' : ∀ z ∈ { p.clearFlags with stepIndex := p.stepIndex + 1 }.zones,
      ((s.withActive { p.clearFlags with stepIndex := p.stepIndex + 1 }).own z).isHeld = true := hheld
  have hdrive : (s.withActive { p.clearFlags with stepIndex := p.stepIndex + 1 }).bay.drive = s.bay.drive := rfl
  generalize s.withActive { p.clearFlags with stepIndex := p.stepIndex + 1 } = t at hnext hleft hheld' hdrive ⊢
  have hfrom : ∀ {u : State}, Ordered t u → Ordered s u := fun hu => ⟨hu.sound, fun hnone => hu.permitted (hdrive.trans hnone)⟩
  dsimp only
  split
  case h_1 hnil =>
    rw [hleft, List.drop_eq_nil_iff] at hnil
    exact absurd hmore (by omega)
  case h_2 st more hsteps =>
    split
    case h_1 r hrefuse => exact hfrom (hnext.finish _)
    case h_2 hpermit =>
      split
      case h_1 y => exact hfrom (hnext.yieldZones _ _)
      case h_2 => exact hfrom (hnext.enterGuard hheld')

/-- A completed step has raised STEP_COMPLETE (R155). -/
def State.stepReported (s : State) (p : Program) (r : DriveReport) : State :=
  match r, p.steps[p.stepIndex - 1]? with
  | .completed, some st => s.event (.stepComplete p.handle p.stepIndex st.switch .driven)
  | _, _ => s

theorem State.stepEnd_eq (s : State) (p : Program) (r : DriveReport) : s.stepEnd p r =
    match p.pendingStop with
    | some c => (s.stepReported p r).finish (stopEnd c p.stepIndex)
    | none =>
      match r with
      | .failed k => (s.stepReported p r).finish (endOf .failed k.reason p.stepIndex)
      | .completed =>
        if p.stepIndex ≥ p.steps.length then (s.stepReported p r).finish (endOf .done none p.stepIndex)
        else (s.stepReported p r).nextStep p.pendingYield := rfl

/-- The end of a driven step (R155). -/
theorem State.Undriven.stepEnd {s : State} {p : Program} (h : s.Undriven p) (hp : p.phase = .driving) (r : DriveReport) :
    Ordered s (s.stepEnd p r) := by
  have ht : (s.stepReported p r).Undriven p := by
    unfold State.stepReported
    split
    · exact h.event _
    · exact h
  have hfrom : ∀ {u : State}, Ordered (s.stepReported p r) u → Ordered s u :=
    fun hu => ⟨hu.sound, fun _ => hu.permitted ht.drive⟩
  rw [State.stepEnd_eq]
  refine hfrom ?_
  split
  case h_1 c hstop => exact ht.finish _
  case h_2 hnostop =>
    split
    · exact ht.finish _
    · split
      · exact ht.finish _
      next hmore => exact ht.nextStep (by omega) (ht.claims.driving hp hnostop) _

/-- The report of a drive's end is taken (R154). -/
theorem State.Sound.takeReport {s : State} (h : s.Sound) : Ordered s s.takeReport := by
  unfold State.takeReport
  split
  case h_2 => exact h.ordered
  case h_1 r p hreport ha =>
    split
    case isFalse => exact h.ordered
    case isTrue hp =>
      obtain ⟨hdrive, hrep, -⟩ := h.drive
      obtain ⟨hstop, -⟩ := hrep (by rw [hreport]; rfl)
      have hnone : s.bay.drive = none := by
        rw [Option.eq_none_iff_forall_ne_some]
        intro d hd
        obtain ⟨-, hn, -⟩ := hdrive d hd
        rw [hreport] at hn
        exact nomatch hn
      have hover : (s.setBay { s.bay with report := none }).Undriven p :=
        ⟨h.queue.congr rfl rfl rfl rfl, ha, h.step p ha, hnone, rfl, hstop, (h.claimsFor ha).congr (fun _ => rfl) rfl⟩
      obtain ⟨hsound, hperm⟩ := hover.stepEnd hp r
      exact ⟨hsound, fun _ => hperm hnone⟩

end Sys2Proof.Machine
end

section
/-! PROOFS. A sound unit under claims, frames heard, stops, drives' ends and muting (R127 to R139, R157 to R161, R30 to R34,
R99). -/
namespace Sys2Proof.Machine

/-! ### Own claims on (R128 to R133) -/

theorem State.driveInv_congr {s t : State} (h : s.driveInv) (ha : t.seq.active = s.seq.active)
    (hd : t.bay.drive = s.bay.drive) (hr : t.bay.report = s.bay.report) (hc : t.ctl.stopping = s.ctl.stopping) :
    t.driveInv := by
  unfold State.driveInv State.driving at h ⊢
  rw [ha, hd, hr, hc]
  exact h

theorem State.claimInv_congr {s t : State} (h : s.claimInv) (ha : t.seq.active = s.seq.active)
    (ho : ∀ z, t.own z = s.own z) (hj : t.claims.job = s.claims.job) : t.claimInv := by
  unfold State.claimInv at h ⊢
  simp only [ha, hj, ho]
  exact h

/-- Claims that go on, none lost that was HELD and none begun: what they agree with stays. -/
theorem State.Sound.claimed {s t : State} (h : s.Sound) (hseq : t.seq = s.seq) (hd : t.bay.drive = s.bay.drive)
    (hr : t.bay.report = s.bay.report) (hc : t.ctl = s.ctl) (hj : t.claims.job = s.claims.job)
    (hidle : ∀ y, t.own y ≠ .idle → s.own y ≠ .idle) (hheld : ∀ y, (s.own y).isHeld = true → (t.own y).isHeld = true) :
    t.Sound := by
  refine ⟨⟨h.queue.congr (by rw [hseq]) (by rw [hseq]) (by rw [hseq]) (by rw [hc]), by rw [hseq]; exact h.step,
    State.driveInv_congr h.drive (by rw [hseq]) hd hr (by rw [hc]), ?_⟩, by rw [hseq]; exact h.taken⟩
  cases ha : s.seq.active with
  | none =>
    obtain ⟨-, -, ho, hjob⟩ := h.at_rest ha
    exact State.claimInv_of_idle (by rw [hseq]; exact ha) (fun z => not_not.1 fun hz => hidle z hz (ho z)) (hj.trans hjob)
  | some p =>
    obtain ⟨hzones, hunheld, hjob, hclaiming, horder, hguard, hdriving⟩ := h.claimsFor ha
    refine (State.claimInv_iff (p := p) (by rw [hseq]; exact ha)).2 ⟨fun z hz => hzones z (hidle z hz), fun z hz hh => ?_,
      fun l hl => hjob l (hj ▸ hl), fun hp => hj.trans (hclaiming hp), fun z hz hne y hy => ?_, fun hg z hz => ?_,
      fun hp hs z hz => ?_⟩
    · refine hunheld z (hidle z hz) (Bool.eq_false_iff.2 fun hs => ?_)
      exact nomatch hh.symm.trans (hheld z hs)
    · exact hheld y (horder z hz (hidle z hne) y hy)
    · exact hheld z (hguard hg z hz)
    · exact hheld z (hdriving hp hs z hz)

/-- One zone's claim goes on, in another state, HELD if it was. -/
theorem State.Sound.reclaimed {s t : State} (h : s.Sound) {z : Nat} {st : OwnState} {c : Prop} [Decidable c]
    (hseq : t.seq = s.seq) (hd : t.bay = s.bay) (hc : t.ctl = s.ctl) (hj : t.claims.job = s.claims.job)
    (ho : ∀ y, t.own y = if y = z ∧ c then st else s.own y) (hne : s.own z ≠ .idle)
    (hheld : (s.own z).isHeld = true → st.isHeld = true) : t.Sound := by
  refine h.claimed hseq (by rw [hd]) (by rw [hd]) hc hj (fun y hy => ?_) fun y hy => ?_
  · rw [ho] at hy
    split at hy
    next heq => rw [heq.1]; exact hne
    · exact hy
  · rw [ho]
    split
    next heq => rw [heq.1] at hy; exact hheld hy
    · exact hy

theorem State.own_holdZone (s : State) (z y : Nat) :
    (s.holdZone z).own y = if y = z ∧ (s.zone? z).isSome = true then s.heldNow else s.own y := by
  have hclaims : (s.holdZone z).claims = (s.setOwn z s.heldNow).claims := by
    rw [State.holdZone_eq, State.holds, ← State.setOwn_eq]
    simp
  rw [State.own_congr hclaims, State.own_setOwn]

theorem State.job_holdZone (s : State) (z : Nat) : (s.holdZone z).claims.job = s.claims.job := by
  rw [State.holdZone_eq, State.holds]
  simp [State.ownSet]

/-- A zone that the unit claims is asked for again. -/
theorem State.Sound.askZone {s : State} (h : s.Sound) {z : Nat} (hne : s.own z ≠ .idle) (hh : (s.own z).isHeld = false) :
    (s.askZone z).Sound :=
  h.reclaimed (by simp) (by simp) (by simp) (s.job_askZone z) (s.own_askZone z) hne fun hx => nomatch hh.symm.trans hx

/-- A zone that the unit claims is HELD, from now or on. -/
theorem State.Sound.holdZone {s : State} (h : s.Sound) {z : Nat} (hne : s.own z ≠ .idle) : (s.holdZone z).Sound :=
  h.reclaimed (by simp) (by simp) (by simp) (s.job_holdZone z) (s.own_holdZone z) hne fun _ => rfl

theorem State.Sound.offer {s : State} (h : s.Sound) (b : FrameBody) : (s.offer b).Sound :=
  h.congr (by simp) (by simp) (by simp) (by simp) (State.own_congr (by simp)) (by simp)

theorem State.Sound.event {s : State} (h : s.Sound) (b : EventBody) : (s.event b).Sound :=
  h.congr (by simp) (by simp) (by simp) (by simp) (State.own_congr (by simp)) (by simp)

theorem OwnState.ne_idle_of_held {o : OwnState} (h : o.isHeld = true) : o ≠ .idle := by
  rintro rfl
  exact nomatch h

theorem State.Sound.secondAsk {s : State} (h : s.Sound) (z : Nat) : (s.secondAsk z).Sound := by
  unfold State.secondAsk
  split
  next t e hown =>
    split
    · have hasking : (s.setOwn z (.asking none e)).Sound :=
        h.reclaimed rfl rfl rfl rfl (s.own_setOwn z _) (by rw [hown]; exact nofun) (by rw [hown]; exact nofun)
      exact hasking.offer _
    · exact h
  · exact h

theorem State.Sound.refreshZone {s : State} (h : s.Sound) (z : Nat) : (s.refreshZone z).Sound := by
  unfold State.refreshZone
  split
  next t hown =>
    split
    · exact h.holdZone (by rw [hown]; exact nofun)
    · exact h
  · exact h

theorem State.Sound.retest {s : State} (h : s.Sound) (z : Nat) : (s.retest z).Sound := by
  unfold State.retest
  split
  next hw => exact h.askZone (by rw [hw.1]; exact nofun) (by rw [hw.1]; rfl)
  · exact h

/-- A program is active while a zone is claimed. -/
theorem State.Sound.active_of_own {s : State} (h : s.Sound) {z : Nat} (hz : s.own z ≠ .idle) :
    ∃ p, s.seq.active = some p ∧ z ∈ p.zones := h.claim.1 z hz

/-- A flag of the active program changed. -/
theorem State.Sound.flagged {s : State} (h : s.Sound) {p q : Program} (ha : s.seq.active = some p) (hq : q.SameWork p)
    (hphase : q.phase = p.phase) (hstep : q.stepIndex = p.stepIndex)
    (hstop : q.pendingStop = none → p.pendingStop = none) : (s.withActive q).Sound :=
  ⟨h.toSettled.flagged ha hq hphase hstep hstop, fun hnone => nomatch hnone⟩

/-- A window lost: WAITING, with one defer more (R129 to R131). -/
theorem State.Sound.loseWindow {s : State} (h : s.Sound) {z : Nat} (hne : s.own z ≠ .idle)
    (hh : (s.own z).isHeld = false) : (s.loseWindow z).Sound := by
  obtain ⟨p, ha, -⟩ := h.active_of_own hne
  have hw : (s.setOwn z .waiting).Sound :=
    h.reclaimed rfl rfl rfl rfl (s.own_setOwn z _) hne fun hx => nomatch hh.symm.trans hx
  have ha' : (s.setOwn z .waiting).seq.active = some p := ha
  rw [State.loseWindow, State.mapActive_eq ha']
  exact hw.flagged ha' ⟨rfl, rfl, rfl⟩ rfl rfl id

/-! ### Peer claim lists changed (R124, R126) -/

/-- A peer claim list changed leaves the own states as they are. -/
theorem State.own_mapPeers (s : State) (z : Nat) (g : List PeerClaim → List PeerClaim) (y : Nat) :
    (s.mapZone z fun c => { c with peers := g c.peers }).own y = s.own y := by
  unfold State.own
  rw [State.zone_mapZone s z (fun c => { c with peers := g c.peers }) (fun _ => rfl) y]
  cases s.zone? y with
  | none => rfl
  | some c =>
    rw [Option.map_some]
    by_cases hy : y = z
    · rw [if_pos hy]
    · rw [if_neg hy]

theorem State.Sound.mapPeers {s : State} (h : s.Sound) (z : Nat) (g : List PeerClaim → List PeerClaim) :
    (s.mapZone z fun c => { c with peers := g c.peers }).Sound :=
  h.congr rfl rfl rfl rfl (s.own_mapPeers z g) rfl

theorem State.Sound.removeEntry {s : State} (h : s.Sound) (z unit : Nat) (gone : PeerClaim → Bool) :
    (s.removeEntry z unit gone).Sound := by
  unfold State.removeEntry
  split
  · exact (h.mapPeers z fun l => l.filter fun e => !(e.unit == unit && gone e)).retest z
  · exact h

/-! ### Stops (R154, R157, R159, R160) -/

/-- A stop cause leaves a settled unit: the program is ended, or its stop is pending. -/
theorem State.Sound.stopActive {s : State} (h : s.Sound) (c : StopCause) :
    (s.stopActive c).Settled ∧ (s.stopActive c).seq.queue = s.seq.queue := by
  cases ha : s.seq.active with
  | none =>
    have hsame : s.stopActive c = s := by rw [State.stopActive, ha]
    rw [hsame]
    exact ⟨h.toSettled, rfl⟩
  | some p =>
    by_cases hp : p.phase = .driving
    · rw [stopActive_driving ha hp]
      exact ⟨h.toSettled.flagged (q := { p with pendingStop := some (p.pendingStop.getD c) }) ha ⟨rfl, rfl, rfl⟩ rfl rfl nofun, rfl⟩
    · rw [stopActive_notDriving ha hp]
      exact ⟨h.toSettled.endActive ha hp _, s.endActive_queue _⟩

/-- A stop cause in DRIVING is pending, and nothing else changes. -/
theorem State.Sound.stopDriving {s : State} (h : s.Sound) (hd : s.driving = true) (c : StopCause) :
    (s.stopActive c).Sound := by
  obtain ⟨p, ha, hp⟩ := s.driving_iff.1 hd
  rw [State.stopActive_driving ha hp]
  exact h.flagged (q := { p with pendingStop := some (p.pendingStop.getD c) }) ha ⟨rfl, rfl, rfl⟩ rfl rfl nofun

/-- Queued programs gone, the rest as it was. -/
theorem State.Settled.fewer {s t : State} (h : s.Settled) (hq : t.seq.queue.Sublist s.seq.queue)
    (ha : t.seq.active = s.seq.active) (hn : t.seq.nextHandle = s.seq.nextHandle) (hb : t.bay = s.bay) (hc : t.ctl = s.ctl)
    (hcl : t.claims = s.claims) : t.Settled :=
  ⟨h.queue.fewer hq (.inr (by rw [ha])) hn (by rw [hc]), by rw [ha]; exact h.step,
    State.driveInv_congr h.drive ha (by rw [hb]) (by rw [hb]) (by rw [hc]),
    State.claimInv_congr h.claim ha (State.own_congr hcl) (by rw [hcl])⟩

theorem State.Settled.abortQueue {s : State} (h : s.Settled) (reason : Reason) : (s.abortQueue reason).Sound := by
  rw [State.abortQueue_eq]
  exact ⟨h.fewer (List.nil_sublist _) rfl rfl rfl rfl rfl, fun _ => rfl⟩

theorem State.Sound.localTakeover {s : State} (h : s.Sound) : s.localTakeover.Sound :=
  (h.stopActive _).1.abortQueue _

theorem State.Sound.cancel {s : State} (h : s.Sound) (hstop : s.ctl.stopping = none) (handle : Nat) :
    Ordered s (s.cancel handle) := by
  unfold State.cancel
  split
  · exact (h.stopActive _).1.ordered_takeUpNext (by simp) (by simpa using hstop)
  · have hfewer : (s.setSeq { s.seq with queue := s.seq.queue.filter fun p => p.handle != handle }).Sound :=
      ⟨h.toSettled.fewer (t := s.setSeq { s.seq with queue := s.seq.queue.filter fun p => p.handle != handle })
        List.filter_sublist rfl rfl rfl rfl rfl,
        fun hnone => by rw [State.setSeq_seq, h.taken hnone]; rfl⟩
    exact ⟨hfewer.event _, fun hnone => State.permitted_of_none (by simpa using hnone)⟩

/-! ### Admission (R145, R146) -/

/-- A new program at the tail of the queue bears a handle of its own. -/
theorem State.Settled.enqueued {s : State} (h : s.Settled) (hrun : s.ctl.mode = .run) (hroom : s.seq.queue.length < 4)
    {p : Program} (hp : p.phase = .queued ∧ p.stepIndex = 0 ∧ 1 ≤ p.steps.length ∧ p.steps.length ≤ 8)
    (hh : p.handle = s.newHandle) :
    (s.setSeq { s.seq with queue := s.seq.queue ++ [p], nextHandle := handleAfter s.newHandle }).Settled := by
  obtain ⟨⟨hmode, hlen, hnodup, hrange, hnext, hqueued⟩, hstep, hdrive, hclaim⟩ := h
  obtain ⟨k, -, hfound, hfree, -⟩ := s.newHandle_found hlen hnext.1 hnext.2
  rw [← hfound] at hfree
  have hbounds : 1 ≤ s.newHandle ∧ s.newHandle ≤ 255 := hfound ▸ handleFrom_range _ _
  have huse : (s.newHandle :: s.handlesInUse).Perm
      (s.setSeq { s.seq with queue := s.seq.queue ++ [p], nextHandle := handleAfter s.newHandle }).handlesInUse := by
    rw [State.handlesInUse_eq, State.handlesInUse_eq]
    simp only [State.setSeq_seq, List.map_append, List.map_cons, List.map_nil, hh, List.append_assoc, List.singleton_append]
    exact List.perm_middle.symm
  refine ⟨⟨fun _ => hrun, ?_, ?_, ?_, ?_, ?_⟩, hstep, State.driveInv_congr hdrive rfl rfl rfl rfl,
    State.claimInv_congr hclaim rfl (fun _ => rfl) rfl⟩
  · rw [State.setSeq_seq, List.length_append]
    exact hroom
  · exact huse.nodup_iff.1 (List.nodup_cons.2 ⟨hfree, hnodup⟩)
  · intro x hx
    rcases List.mem_cons.1 (huse.mem_iff.2 hx) with rfl | hx
    · exact hbounds
    · exact hrange x hx
  · have hafter : 1 ≤ handleAfter s.newHandle ∧ handleAfter s.newHandle ≤ 255 := by
      unfold handleAfter
      split <;> omega
    exact hafter
  · intro q hq
    rcases List.mem_append.1 hq with hq | hq
    · exact hqueued q hq
    · rw [List.mem_singleton.1 hq]
      exact hp

theorem State.Sound.enqueue {s : State} (h : s.Sound) (hrun : s.ctl.mode = .run) (hstop : s.ctl.stopping = none)
    (hroom : s.seq.queue.length < 4) (urgency : Nat) {steps : List Step} (h1 : 1 ≤ steps.length) (h8 : steps.length ≤ 8) :
    Ordered s (s.enqueue urgency steps) := by
  have hsettled := h.toSettled.enqueued hrun hroom
    (p := newProgram s.newHandle urgency steps (s.ctl.model.requiredUnion (steps.map (·.switch)))) ⟨rfl, rfl, h1, h8⟩ rfl
  exact hsettled.ordered_takeUpNext rfl hstop

/-! ### Yields and split claims (R135, R137 to R139) -/

/-- Zones given back by a program outside DRIVING (R161). -/
theorem State.Sound.yieldZones {s : State} (h : s.Sound) {z : Nat} (hz : s.own z ≠ .idle) (hd : s.driving ≠ true)
    (hstop : s.ctl.stopping = none) (cause : YieldCause) (y : YieldFrom) : Ordered s (s.yieldZones cause y) := by
  obtain ⟨p, ha, -⟩ := h.active_of_own hz
  exact (h.toSettled.toUndriven ha (fun hp => hd (s.driving_iff.2 ⟨p, ha, hp⟩)) hstop).yieldZones cause y

theorem State.Sound.yieldReported {s : State} (h : s.Sound) {z : Nat} (hz : s.own z ≠ .idle)
    (hstop : s.ctl.stopping = none) (y : YieldFrom) : Ordered s (s.yieldReported y) := by
  unfold State.yieldReported
  split
  next hd =>
    obtain ⟨p, ha, -⟩ := s.driving_iff.1 hd
    rw [State.mapActive_eq ha]
    exact ⟨h.flagged (q := { p with pendingYield := some (p.pendingYield.getD y) }) ha ⟨rfl, rfl, rfl⟩ rfl rfl id,
      fun hnone => State.permitted_of_none hnone⟩
  next hd => exact h.yieldZones hz hd hstop _ _

/-- A lost split claim offered and raised changes a flag of the active program and the bay port alone. -/
theorem State.Sound.offerClash {s : State} (h : s.Sound) (z : Nat) :
    (s.offerClash z).Sound ∧ (s.offerClash z).driving = s.driving := by
  unfold State.offerClash
  split
  · exact ⟨h, rfl⟩
  · cases ha : s.seq.active with
    | none =>
      have hsame : (s.mapActive fun p => { p with clashOffered := true }).seq = s.seq := by
        rw [State.mapActive, ha, State.setSeq_seq, Option.map_none, ← ha]
      exact ⟨h.congr (by simpa using hsame) (by simp) (by simp) (by simp) (State.own_congr (by simp)) (by simp),
        by simp [State.driving, hsame]⟩
    | some p =>
      rw [State.mapActive_eq ha]
      have hflag : (s.withActive { p with clashOffered := true }).Sound := h.flagged ha ⟨rfl, rfl, rfl⟩ rfl rfl id
      refine ⟨hflag.congr (by simp) (by simp) (by simp) (by simp) (State.own_congr (by simp)) (by simp), ?_⟩
      simp [State.driving, State.withActive, ha]

theorem State.Sound.splitLost {s : State} (h : s.Sound) (hstop : s.ctl.stopping = none) (y : YieldFrom) {z : Nat}
    (hz : s.own z ≠ .idle) : Ordered s (s.splitLost y) := by
  unfold State.splitLost
  split
  next hd =>
    obtain ⟨hclash, hdriving⟩ := h.offerClash y.zone
    refine ⟨hclash.stopDriving (hdriving.trans hd) _, fun hnone => State.permitted_of_none ?_⟩
    simpa using hnone
  next hd => exact h.yieldZones hz hd hstop _ _

/-! ### Windows and frames heard (R123 to R137) -/

/-- The next zone of the claim job is asked for, all before it HELD (R127). -/
theorem State.Sound.askNext {s : State} (h : s.Sound) {p : Program} (ha : s.seq.active = some p)
    (hp : p.phase = .claiming) {n : Nat} (hn : s.nextZone = some n) : (s.askZone n).Sound := by
  obtain ⟨hzones, -, hjob, hclaiming, horder, -, -⟩ := h.claimsFor ha
  obtain ⟨hd, hr⟩ := h.toSettled.undriven ha (by rw [hp]; exact nofun)
  rw [State.nextZone, hclaiming hp, Option.getD_some, List.find?_eq_some_iff_append] at hn
  obtain ⟨hunheld, before, behind, hsplit, hbefore⟩ := hn
  have hheld : ∀ y ∈ before, (s.own y).isHeld = true := fun y hy => by simpa using hbefore y hy
  have hnot : (s.own n).isHeld = false := by simpa using hunheld
  have hkept : ∀ y, (s.own y).isHeld = true → ((s.askZone n).own y).isHeld = true := by
    intro y hy
    rw [State.own_askZone, if_neg]
    · exact hy
    · rintro ⟨rfl, -⟩
      exact nomatch hnot.symm.trans hy
  have hother : ∀ {y}, y ≠ n → (s.askZone n).own y = s.own y := fun hy => by
    rw [State.own_askZone, if_neg fun hx => hy hx.1]
  have htake : p.zones.takeWhile (· != n) ⊆ before := by
    intro y hy
    rw [hsplit, List.takeWhile_append_of_pos] at hy
    · simpa using hy
    · intro x hx
      refine bne_iff_ne.2 ?_
      rintro rfl
      exact nomatch hnot.symm.trans (hheld _ hx)
  have hstep := h.step p ha
  refine ⟨.of_undriven (p := p) (h.queue.congr (by simp) (by simp) (by simp) (by simp)) (by simpa using ha) hstep
    (by rw [hp]; exact nofun) (by simpa using hd) (by simpa using hr) ⟨fun z hz => ?_, fun _ _ _ => hp, fun l hl => ?_,
      fun _ => by rw [State.job_askZone]; exact hclaiming hp, fun z hz hne y hy => ?_, ?_, ?_⟩, fun hnone => ?_⟩
  · by_cases hzn : z = n
    · rw [hzn, hsplit]
      exact List.mem_append_right _ List.mem_cons_self
    · rw [hother hzn] at hz
      exact hzones z hz
  · rw [State.job_askZone] at hl
    exact hjob l hl
  · refine hkept y ?_
    by_cases hzn : z = n
    · rw [hzn] at hy
      exact hheld y (htake hy)
    · rw [hother hzn] at hne
      exact horder z hz hne y hy
  · rw [hp]; exact nofun
  · rw [hp]; exact nofun
  · have hsome : (s.askZone n).seq.active = some p := by simpa using ha
    exact nomatch hsome.symm.trans hnone

end Sys2Proof.Machine
end

section
/-! PROOFS. A sound unit under the commands of its blocks: windows, deadlines, frames heard, filters, timers, muting. -/
namespace Sys2Proof.Machine

theorem State.running_iff {s : State} : s.running = true ↔ s.supplied = true ∧ s.ctl.mode = .run ∧ s.ctl.stopping = none := by
  simp [State.running, and_assoc]

theorem State.receiving_iff {s : State} :
    s.receiving = true ↔ s.supplied = true ∧ (s.ctl.mode = .quiet ∨ s.ctl.mode = .run) ∧ s.ctl.stopping = none := by
  simp [State.receiving, State.working, and_assoc]

/-- A sound unit whose drive has not begun. -/
theorem State.Sound.ordered_of {s t : State} (h : t.Sound) (hd : t.bay.drive = s.bay.drive) : Ordered s t :=
  ⟨h, fun hnone => State.permitted_of_none (hd.trans hnone)⟩

/-- An act on a state that differs in neither the drive. -/
theorem Ordered.after {s t u : State} (h : Ordered t u) (hd : t.bay.drive = s.bay.drive) : Ordered s u :=
  ⟨h.sound, fun hnone => h.permitted (hd.trans hnone)⟩

/-! ### Windows and deadlines (R130, R133, R140, R150, R151) -/

/-- A window won (R133, R149). -/
theorem State.Sound.winZone {s : State} (h : s.Sound) {z : Nat} (hne : s.own z ≠ .idle) (hh : (s.own z).isHeld = false)
    (hstop : s.ctl.stopping = none) : Ordered s (s.winZone z) := by
  obtain ⟨p, ha, -⟩ := h.active_of_own hne
  have hp : p.phase = .claiming := (h.claimsFor ha).unheld z hne hh
  have hwon := h.holdZone hne
  have ha' : (s.holdZone z).seq.active = some p := by simpa using ha
  have hbay : (s.holdZone z).bay = s.bay := by simp
  unfold State.winZone
  dsimp only
  split
  case h_1 n hn => exact (hwon.askNext ha' hp hn).ordered_of (by simp)
  case h_2 hnone =>
    have hunit := hwon.toSettled.toUndriven ha' (by rw [hp]; exact nofun) (by simpa using hstop)
    refine (hunit.enterGuard fun y hy => ?_).after (by rw [hbay])
    rw [State.nextZone, hunit.claims.claiming hp, Option.getD_some, List.find?_eq_none] at hnone
    simpa using hnone y hy

theorem State.Sound.closeWindow {s : State} (h : s.Sound) (hstop : s.ctl.stopping = none) (z : Nat) :
    Ordered s (s.closeWindow z) := by
  unfold State.closeWindow
  split
  next t e hown =>
    have hne : s.own z ≠ .idle := by rw [hown]; exact nofun
    have hh : (s.own z).isHeld = false := by rw [hown]; rfl
    split
    · split
      · exact (h.loseWindow hne hh).ordered_of (by simp)
      · exact h.winZone hne hh hstop
    · exact h.ordered
  · exact h.ordered

theorem State.Sound.claimExpiry {s : State} (h : s.Sound) (hstop : s.ctl.stopping = none) : Ordered s s.claimExpiry := by
  unfold State.claimExpiry
  split
  next p ha =>
    split
    next hp => exact (h.toSettled.toUndriven ha (by rw [hp.1]; exact nofun) hstop).finish _
    · exact h.ordered
  · exact h.ordered

theorem State.Sound.guardRetest {s : State} (h : s.Sound) (hstop : s.ctl.stopping = none) : Ordered s s.guardRetest := by
  unfold State.guardRetest
  split
  next p ha =>
    split
    next t d hp =>
      split
      · exact (h.toSettled.testGuard ha (by rw [hp]; rfl) hstop).takeUpNext (by simpa using hstop)
      · exact h.ordered
    · exact h.ordered
  · exact h.ordered

theorem State.Sound.guardExpiry {s : State} (h : s.Sound) (hstop : s.ctl.stopping = none) : Ordered s s.guardExpiry := by
  unfold State.guardExpiry
  split
  next p ha =>
    split
    next t d hp =>
      split
      · exact (h.toSettled.toUndriven ha (by rw [hp]; exact nofun) hstop).finish _
      · exact h.ordered
    · exact h.ordered
  · exact h.ordered

/-! ### Frames heard (R123 to R137) -/

theorem State.Sound.askHeard {s : State} (h : s.Sound) (z : Nat) (e : PeerClaim) (prompt : Bool) :
    (s.askHeard z e prompt).Sound := by
  unfold State.askHeard
  split
  case h_1 => exact h
  case h_2 hown =>
    split
    · exact h.loseWindow (by rw [hown]; exact nofun) (by rw [hown]; rfl)
    · exact h
  case h_3 =>
    unfold State.promptRetest
    split
    · exact h.retest z
    · exact h
  case h_4 hown => exact h.holdZone (by rw [hown]; exact nofun)

theorem State.Sound.yieldRule {s : State} (h : s.Sound) (z : Nat) (e : PeerClaim) : (s.yieldRule z e).Sound := by
  unfold State.yieldRule
  split
  · exact h.offer _
  · exact h

theorem State.Sound.holdHeard {s : State} (h : s.Sound) (hstop : s.ctl.stopping = none) (z : Nat) (e : PeerClaim)
    (prompt : Bool) : Ordered s (s.holdHeard z e prompt) := by
  unfold State.holdHeard
  split
  case h_1 => exact h.ordered
  case h_2 hown =>
    exact ((h.loseWindow (by rw [hown]; exact nofun) (by rw [hown]; rfl)).yieldRule z e).ordered_of (by simp)
  case h_3 =>
    unfold State.promptRetest
    split
    · exact ((h.retest z).yieldRule z e).ordered_of (by simp)
    · exact (h.yieldRule z e).ordered_of (by simp)
  case h_4 hown =>
    have hne : s.own z ≠ .idle := by rw [hown]; exact nofun
    split
    · exact (h.holdZone hne).ordered_of (by simp)
    · exact h.splitLost hstop _ hne

theorem State.Sound.enter {s : State} (h : s.Sound) (z : Nat) (e : PeerClaim) : (s.enter z e).Sound :=
  h.mapPeers z fun l => (enterClaim s.now s.live l e).1

theorem State.Sound.dispatch {s : State} (h : s.Sound) (hstop : s.ctl.stopping = none) (f : Frame) :
    Ordered s (s.dispatch f) := by
  unfold State.dispatch
  split
  · exact (h.congr (by simp) (by simp) (by simp) (by simp) (State.own_congr (by simp)) (by simp)).ordered_of (by simp)
  · unfold State.takeAsk
    split
    · exact ((h.enter _ _).askHeard _ _ _).ordered_of (by simp)
    · exact h.ordered
  · unfold State.takeHold
    split
    · exact ((h.enter _ _).holdHeard (by simpa using hstop) _ _ _).after (by simp)
    · exact h.ordered
  · exact (h.removeEntry _ _ _).ordered_of (by simp)
  · unfold State.takeYield
    split
    next hheld => exact h.yieldReported (OwnState.ne_idle_of_held hheld.2.1) hstop _
    · exact h.ordered

/-! ### Muting (R99) -/

theorem State.Sound.enterMuted {s : State} (h : s.Sound) (kind : FaultKind) : (s.enterMuted kind).Sound := by
  obtain ⟨-, hclaims, hseq, -, -, hframe⟩ := s.enterMuted_muted kind
  have hbay : (s.enterMuted kind).bay = s.bay := by simp
  have hctl : (s.enterMuted kind).ctl = s.ctl := by simp
  have hown : ∀ z, (s.enterMuted kind).own z = .idle := fun z =>
    (State.own_congr (t := s.claimsMuted) hclaims z).trans (s.own_claimsMuted z)
  have hjob : (s.enterMuted kind).claims.job = none := by rw [hclaims]
  have hqueue : (s.enterMuted kind).seq.queue = [] := by rw [hseq]
  have hactive : (s.enterMuted kind).seq.active = s.seq.active.bind fun p =>
      if p.phase = .driving then some { p with pendingStop := some (p.pendingStop.getD .linkMuted) } else none := by rw [hseq]
  have hnext : (s.enterMuted kind).seq.nextHandle = s.seq.nextHandle := by simp
  clear hclaims hseq hframe
  generalize s.enterMuted kind = t at *
  refine ⟨?_, fun _ => hqueue⟩
  have hrest : t.seq.active = none → (∀ p, s.seq.active = some p → p.phase ≠ .driving) → t.Settled := by
    intro hnone hnot
    refine .of_rest (h.queue.fewer (by rw [hqueue]; exact List.nil_sublist _) (.inl hnone) hnext (by rw [hctl])) hnone ?_ ?_
      hown hjob
    · rw [hbay]
      cases ha : s.seq.active with
      | none => exact (h.at_rest ha).1
      | some p => exact (h.toSettled.undriven ha (hnot p ha)).1
    · rw [hbay]
      cases ha : s.seq.active with
      | none => exact (h.at_rest ha).2.1
      | some p => exact (h.toSettled.undriven ha (hnot p ha)).2
  cases ha : s.seq.active with
  | none =>
    rw [ha] at hactive
    exact hrest hactive fun p hp => nomatch ha.symm.trans hp
  | some p =>
    rw [ha, Option.bind_some] at hactive
    by_cases hp : p.phase = .driving
    · rw [if_pos hp] at hactive
      have hflag := h.toSettled.flagged (q := { p with pendingStop := some (p.pendingStop.getD .linkMuted) }) ha
        ⟨rfl, rfl, rfl⟩ rfl rfl nofun
      have hq : t.QueueInv := h.queue.fewer (by rw [hqueue]; exact List.nil_sublist _)
        (.inr (by rw [hactive, ha]; rfl)) hnext (by rw [hctl])
      refine ⟨hq, fun q hq' => hflag.step q (hactive.symm.trans hq'),
        State.driveInv_congr hflag.drive hactive (by rw [hbay]; rfl) (by rw [hbay]; rfl) (by rw [hctl]; rfl),
        (State.claimInv_iff hactive).2 ⟨fun z hz => absurd (hown z) hz, fun z hz => absurd (hown z) hz, fun l hl => ?_,
          fun hc => ?_, fun z _ hz => absurd (hown z) hz, fun hg => ?_, nofun⟩⟩
      · exact nomatch hjob.symm.trans hl
      · exact nomatch hp.symm.trans hc
      · exact absurd hp (Phase.not_of_guard hg).1
    · rw [if_neg hp] at hactive
      exact hrest hactive fun q hq => by rw [ha] at hq; exact Option.some.inj hq ▸ hp

theorem State.Sound.receive {s : State} (h : s.Sound) (f : Frame) : Ordered s (s.receive f) := by
  unfold State.receive
  split
  · exact h.ordered
  next hheard =>
    have hreceiving : s.receiving = true := by
      rw [← Bool.not_eq_false]
      exact fun hf => hheard (.inl hf)
    obtain ⟨-, -, hstop⟩ := State.receiving_iff.1 hreceiving
    split
    · exact h.ordered
    · split
      · unfold State.duplicate
        split
        · exact h.ordered
        · exact (h.enterMuted _).ordered_of (by simp)
      · have hchecked : (s.revisionCheck f.sender f.revision).Sound :=
          h.congr (by simp) (by simp) (by simp) (by simp) (State.own_congr (by simp)) (by simp)
        dsimp only
        split
        · exact (hchecked.dispatch (by simpa using hstop) f).after (by simp)
        · exact hchecked.ordered_of (by simp)

/-! ### Drives and filters (R25 to R34) -/

/-- The end of a drive leaves its report to the sequencer. -/
theorem State.Sound.driveEnded {s t : State} (h : s.Sound) {d : DriveRecord} (hd : s.bay.drive = some d)
    (hseq : t.seq = s.seq) (hc : t.ctl = s.ctl) (hcl : t.claims = s.claims) (hdrive : t.bay.drive = none)
    (hreport : t.bay.report.isSome = true) : t.Sound := by
  obtain ⟨hstop, -, p, ha, hp, -⟩ := h.drive.1 d hd
  have ha' : t.seq.active = some p := by rw [hseq]; exact ha
  refine ⟨.of_driving (h.queue.congr (by rw [hseq]) (by rw [hseq]) (by rw [hseq]) (by rw [hc])) ha' (h.step p ha) hp
    (by rw [hc]; exact hstop) ((h.claimsFor ha).congr (State.own_congr hcl) (by rw [hcl])) (.inl ⟨hdrive, hreport⟩),
    fun hnone => nomatch ha'.symm.trans hnone⟩

/-- A drive that goes on. -/
theorem State.Sound.driveOn {s t : State} (h : s.Sound) {d d' : DriveRecord} (hd : s.bay.drive = some d)
    (hseq : t.seq = s.seq) (hc : t.ctl = s.ctl) (hcl : t.claims = s.claims) (hdrive : t.bay.drive = some d')
    (hreport : t.bay.report = s.bay.report) (hswitch : d'.switch = d.switch) (hdir : d'.direction = d.direction)
    (hhandle : d'.handle = d.handle) (hstep : d'.step = d.step) : t.Sound := by
  obtain ⟨hstop, hrep, p, ha, hp, hph, hps, hst⟩ := h.drive.1 d hd
  have ha' : t.seq.active = some p := by rw [hseq]; exact ha
  refine ⟨.of_driving (h.queue.congr (by rw [hseq]) (by rw [hseq]) (by rw [hseq]) (by rw [hc])) ha' (h.step p ha) hp
    (by rw [hc]; exact hstop) ((h.claimsFor ha).congr (State.own_congr hcl) (by rw [hcl]))
    (.inr ⟨hreport.trans hrep, d', hdrive, by rw [hhandle]; exact hph, by rw [hstep]; exact hps, by rw [hswitch, hdir]; exact hst⟩),
    fun hnone => nomatch ha'.symm.trans hnone⟩

theorem State.Sound.failDrive {s : State} (h : s.Sound) {d : DriveRecord} (hd : s.bay.drive = some d) (kind : FaultKind)
    (id : Nat) (o : Nat × Nat) : (s.failSwitch kind id (some o)).Sound := by
  obtain ⟨hdrive, hreport⟩ := s.failSwitch_order kind id o
  exact h.driveEnded hd (by simp) (by simp) (by simp) hdrive (by rw [hreport]; rfl)

theorem State.Sound.supervise {s : State} (h : s.Sound) {d : DriveRecord} (hd : s.bay.drive = some d) (v : PointValue) :
    (s.supervise d v).Sound := by
  unfold State.supervise
  split
  · refine h.driveEnded hd (by simp) (by simp) (by simp) ?_ ?_
    · simp [State.completeDrive, State.reportDrive, State.mapPoint, State.dropDrive]
    · simp [State.completeDrive, State.reportDrive]
  · split
    · exact h.failDrive hd _ _ _
    · split
      · exact h.failDrive hd _ _ _
      · exact h.driveOn (d' := d.left v) hd (by simp) (by simp) (by simp) (by simp) (by simp) rfl rfl rfl rfl

/-- A stuck switch found, or any act that leaves programs, claims and the drive alone. -/
theorem State.Sound.failStuck {s : State} (h : s.Sound) (kind : FaultKind) (id : Nat) :
    Ordered s (s.failSwitch kind id none) := by
  obtain ⟨hdrive, hreport⟩ := s.failSwitch_stuck kind id
  exact (h.congr (by simp) hdrive hreport (by simp) (State.own_congr (by simp)) (by simp)).ordered_of hdrive

theorem State.Sound.localChange {s : State} (h : s.Sound) (id : Nat) (old : Option PointValue) (v : PointValue) :
    Ordered s (s.localChange id old v) := by
  unfold State.localChange
  split
  · split
    next d hunder =>
      have hd : s.bay.drive = some d := by
        unfold State.underDrive? at hunder
        split at hunder
        next d' hd' =>
          split at hunder
          · rw [hd', hunder]
          · exact nomatch hunder
        · exact nomatch hunder
      exact ⟨h.supervise hd v, fun hnone => nomatch hd.symm.trans hnone⟩
    next =>
      have hbay : ((s.uncommanded id old v).stuckRule id v).bay.drive = s.bay.drive ∧
          ((s.uncommanded id old v).stuckRule id v).bay.report = s.bay.report := by
        simp [State.stuckRule, State.mapPoint]
      exact (h.congr (by simp) (by simp [hbay]) (by simp [hbay]) (by simp) (State.own_congr (by simp)) (by simp)).ordered_of
        (by simp [hbay])
  · exact (h.congr (by simp) (by simp) (by simp) (by simp) (State.own_congr (by simp)) (by simp)).ordered_of (by simp)

theorem State.Sound.filterPoint {s : State} (h : s.Sound) (id : Nat) : Ordered s (s.filterPoint id) := by
  unfold State.filterPoint
  split
  · exact h.ordered
  · split
    · exact h.ordered
    next r _ =>
      split
      · have hread : (s.mapPoint id fun q => { q with value := some r.reading, pending := none }).Sound :=
          h.congr rfl rfl rfl rfl (fun _ => rfl) rfl
        exact (hread.localChange id _ r.reading).after rfl
      · exact h.ordered

theorem State.Sound.filterSelector {s : State} (h : s.Sound) : Ordered s s.filterSelector := by
  unfold State.filterSelector
  split
  · exact h.ordered
  next r since _ =>
    split
    · have hread : (s.setBay { s.bay with selector := { value := some r, pending := none } }).Sound :=
        h.congr rfl rfl rfl rfl (fun _ => rfl) rfl
      dsimp only
      split
      · exact hread.ordered_of rfl
      · split
        · exact ((hread.event _).localTakeover).ordered_of (by simp)
        · exact (hread.event _).ordered_of (by simp)
    · exact h.ordered

theorem State.Sound.runExpiry {s : State} (h : s.Sound) : Ordered s s.runExpiry := by
  unfold State.runExpiry
  split
  next d hd =>
    split
    · exact ⟨h.failDrive hd _ _ _, fun hnone => nomatch hd.symm.trans hnone⟩
    · exact h.ordered
  · exact h.ordered

theorem State.Sound.stuckExpiry {s : State} (h : s.Sound) (id : Nat) : Ordered s (s.stuckExpiry id) := by
  unfold State.stuckExpiry
  split
  · split
    · exact h.failStuck _ _
    · exact h.ordered
  · exact h.ordered

theorem State.Sound.lineChange {s : State} (h : s.Sound) (line : Line) (made : Bool) : Ordered s (s.lineChange line made) := by
  unfold State.lineChange
  split
  · exact h.ordered
  · have hform : ∀ t : State, t.Sound → (t.formReading line).Sound ∧ (t.formReading line).bay.drive = t.bay.drive := by
      intro t ht
      have hbay : (t.formReading line).bay.drive = t.bay.drive ∧ (t.formReading line).bay.report = t.bay.report := by
        unfold State.formReading
        split
        · exact ⟨rfl, rfl⟩
        · exact ⟨rfl, rfl⟩
        · split
          · exact ⟨rfl, rfl⟩
          · exact ⟨rfl, rfl⟩
      exact ⟨ht.congr (by simp) hbay.1 hbay.2 (by simp) (State.own_congr (by simp)) (by simp), hbay.1⟩
    have hline : (s.setBay { s.bay with lines := s.bay.lines.change line made }).Sound :=
      h.congr rfl rfl rfl rfl (fun _ => rfl) rfl
    dsimp only
    split
    · obtain ⟨hsound, hdrive⟩ := hform _ hline
      exact hsound.ordered_of hdrive
    · exact hline.ordered_of rfl

end Sys2Proof.Machine
end

section
/-! PROOFS. Steps and commands as such: what a step takes, what a command without supply does. -/
namespace Sys2Proof.Machine

/-- Settles O1. -/
theorem stepTakesTheFrontCommand : Obligations.StepTakesTheFrontCommand := by
  intro s c rest hpending
  rw [step, hpending]
  rfl

theorem step_of_idle {s : State} (h : s.pending = []) : step s = .next (tick s) := by
  rw [step, h]

/-- Settles O2: the stage is txAdvance of the old one. -/
theorem idleStepIsAMicrosecond : Obligations.IdleStepIsAMicrosecond := by
  intro s hpending
  rw [step_of_idle hpending]
  refine ⟨fun hs => ?_, fun hs => ⟨tick s, rfl, ?_, fun last hstage => ?_, fun hstage => ?_⟩⟩
  · rw [tick, hs]
    rfl
  · rw [tick, if_pos hs]
    rfl
  · rw [tick, if_pos hs]
    show txAdvance (s.micros + 1) s.link.stage = _
    rw [hstage, txAdvance]
  · rw [tick, if_pos hs]
    show txAdvance (s.micros + 1) s.link.stage = s.link.stage
    cases hst : s.link.stage with
    | sending last => exact absurd hst (hstage last)
    | idle | deferring since | echoWait last => rfl

/-! ### Without supply -/

section
variable {s : State} (h : s.supplied = false)
include h

theorem State.working_of_unsupplied : s.working = false := by simp [State.working, h]

theorem State.receiving_of_unsupplied : s.receiving = false := by simp [State.receiving, State.working_of_unsupplied h]

theorem State.running_of_unsupplied : s.running = false := by simp [State.running, h]

theorem State.inStop_of_unsupplied : s.inStop = false := by simp [State.inStop, h]

theorem State.receiveRequest_of_unsupplied (t : Tagged) : s.receiveRequest t = s := by simp [State.receiveRequest, h]

theorem State.receiveRecord_of_unsupplied (record : List Byte) : s.receiveRecord record = s := by
  unfold State.receiveRecord
  split
  · exact State.receiveRequest_of_unsupplied h _
  · rfl

theorem receiveRecords_of_unsupplied (l : List (List Byte)) : receiveRecords l s = s := by
  induction l with
  | nil => rfl
  | cons r rest ih => rw [receiveRecords, State.receiveRecord_of_unsupplied h, ih]

theorem State.receive_of_unsupplied (f : Frame) : s.receive f = s := by
  rw [State.receive, if_pos (.inl (State.receiving_of_unsupplied h))]

/-- A command other than those of the supply, the lines and the medium has no effect without supply. -/
theorem exec_of_unsupplied {c : Instr} (hon : c ≠ .powerOn) (hbusy : c ≠ .mediumBusy) (hidle : c ≠ .mediumIdle)
    (hraw : ∀ line made, c ≠ .rawInputChange line made) : exec c s = .next s := by
  have hworking := State.working_of_unsupplied h
  have hreceiving := State.receiving_of_unsupplied h
  have hrunning := State.running_of_unsupplied h
  have hstop := State.inStop_of_unsupplied h
  cases c with
  | powerOn => exact absurd rfl hon
  | mediumBusy => exact absurd rfl hbusy
  | mediumIdle => exact absurd rfl hidle
  | rawInputChange line made => exact absurd rfl (hraw line made)
  | supplyFailure => simp [exec, execSupplyFailure, h]
  | loadingEnd => simp [exec, execLoadingEnd, h]
  | quietTimeExpiry => simp [exec, execQuietTimeExpiry, h]
  | writeConfig tag offset data => simp [exec, execWriteConfig, State.receiveRequest_of_unsupplied h]
  | configBlockStored =>
    simp only [exec, execConfigBlockStored, h, Bool.false_eq_true, if_false]
    cases s.ctl.blockWrite <;> rfl
  | stopFrameOutcome outcome => simp [exec, execStopFrameOutcome, hstop]
  | stopFrameSkip => simp [exec, execStopFrameSkip, hstop]
  | unknownRequestType tag type => simp [exec, execUnknownRequestType, State.receiveRequest_of_unsupplied h]
  | requestRecordDiscard record => simp [exec, execRequestRecordDiscard, State.receiveRecord_of_unsupplied h]
  | overrun tag type => simp [exec, execOverrun, h]
  | recordGapTimeout bytes => simp [exec, execRecordGapTimeout, receiveRecords_of_unsupplied h]
  | filterTimerExpiry input => simp [exec, execFilterTimerExpiry, hworking]
  | runTimeExpiry => simp [exec, execRunTimeExpiry, hworking]
  | stuckTimerExpiry switch => simp [exec, execStuckTimerExpiry, hworking]
  | driveEndReport => simp [exec, execDriveEndReport, hrunning]
  | claimDeadline => simp [exec, execClaimDeadline, hrunning]
  | guardReleaseTime => simp [exec, execGuardReleaseTime, hrunning]
  | guardDeadline => simp [exec, execGuardDeadline, hrunning]
  | damagedFrame bytes =>
    simp only [exec, execDamagedFrame, State.receive_of_unsupplied h]
    cases parseFrame bytes <;> rfl
  | peerExpiry unit => simp [exec, execPeerExpiry, hworking]
  | storedTimeLapse which => simp [exec, execStoredTimeLapse, hworking]
  | bulletin => simp [exec, execBulletin, State.receive_of_unsupplied h]
  | ask => simp [exec, execAsk, State.receive_of_unsupplied h]
  | hold => simp [exec, execHold, State.receive_of_unsupplied h]
  | drop => simp [exec, execDrop, State.receive_of_unsupplied h]
  | yieldRequest => simp [exec, execYieldRequest, State.receive_of_unsupplied h]
  | secondAskTime zone => simp [exec, execSecondAskTime, hrunning]
  | windowEnd zone => simp [exec, execWindowEnd, hrunning]
  | refreshTime zone => simp [exec, execRefreshTime, hrunning]
  | peerEntryExpiry zone unit => simp [exec, execPeerEntryExpiry, hreceiving]
  | bulletinDue =>
    simp only [exec, execBulletinDue, hrunning, Bool.false_eq_true, false_and, if_false]
    cases s.pub.stage <;> rfl
  | idleSpellComplete => simp [exec, execIdleSpellComplete, h]
  | echoMatched => simp [exec, execEchoMatched, hrunning]
  | echoMismatch => simp [exec, execEchoMismatch, hrunning]
  | echoTimeout => simp [exec, execEchoTimeout, hrunning]
  | probeTimerExpiry => simp [exec, execProbeTimerExpiry, hrunning]
  | readStatus | restart | halt | operate | program | cancel | check | readPoint | readNode | readClaims | readEvent
  | readCapture | unlockCapture | clearFaultSwitch | clearFaultLink =>
    exact congrArg Host.Outcome.next (State.receiveRequest_of_unsupplied h _)

end

/-- Settles O4. -/
theorem withoutSupplyNothingActs : Obligations.WithoutSupplyNothingActs := by
  refine ⟨fun c s h hon hbusy hidle hraw => exec_of_unsupplied h hon hbusy hidle hraw, fun s => ⟨?_, ?_, State.running_iff⟩⟩
  · simp [State.working]
  · simp [State.receiving]

end Sys2Proof.Machine
end

section
/-! PROOFS. What the transmitter agrees on with the mode: every act of the blocks and of the link keeps it (R92, R93, R99,
R106). -/
namespace Sys2Proof.Machine

/-- The transmitter's part depends on the link, the mode and the stop alone. -/
theorem State.linkInv_congr {s t : State} (h : s.linkInv) (hl : t.link = s.link) (hm : t.ctl.mode = s.ctl.mode)
    (hs : t.ctl.stopping = s.ctl.stopping) : t.linkInv := by
  unfold State.linkInv at h ⊢
  rw [hl, hm, hs]
  exact h

/-- A transmitter with nothing in hand and nothing listed agrees with every mode. -/
theorem State.linkInv_of_idle {s : State} (hin : s.link.inHand = none) (hst : s.link.stage = .idle)
    (hl : s.link.txList = []) : s.linkInv :=
  ⟨iff_of_true hin hst, fun _ => hl, fun h => absurd hin (Option.isSome_iff_ne_none.1 h), fun _ _ => hl⟩

/-- A transmitter with a frame in hand agrees with RUN, and with what waits behind it. -/
theorem State.linkInv_of_busy {s : State} (hin : s.link.inHand.isSome = true) (hst : s.link.stage ≠ .idle)
    (hrun : s.ctl.mode = .run) (hl : s.link.mode = .muted → s.ctl.stopping = none → s.link.txList = []) : s.linkInv := by
  have hne : s.link.inHand ≠ none := fun hn => by rw [hn] at hin; exact nomatch hin
  exact ⟨iff_of_false hne hst, fun h => absurd h hne, fun _ => hrun, hl⟩

/-- The head of the list is taken in hand in RUN (R93). -/
theorem State.linkInv_takeHead {s : State} (hin : s.link.inHand = none) (hst : s.link.stage = .idle)
    (hrun : s.ctl.mode = .run) (hl : s.link.mode = .muted → s.ctl.stopping = none → s.link.txList.length ≤ 1) :
    s.takeHead.linkInv := by
  unfold State.takeHead
  split
  next hnil => exact State.linkInv_of_idle hin hst hnil
  next f rest hlist =>
    refine State.linkInv_of_busy rfl nofun hrun fun hm hs => ?_
    have hlen := hl hm hs
    rw [hlist, List.length_cons] at hlen
    exact List.length_eq_zero_iff.1 (Nat.le_zero.1 (Nat.le_of_succ_le_succ hlen))

/-- With the link ACTIVE or a single frame listed, the transmitter takes what it can in hand. -/
theorem State.linkInv_takeInHand {s : State} (hstage : s.link.inHand = none ↔ s.link.stage = .idle)
    (hrun : s.ctl.mode = .run)
    (hl : s.link.mode = .muted → s.ctl.stopping = none → s.link.inHand = none ∧ s.link.txList.length ≤ 1) :
    s.takeInHand.linkInv := by
  unfold State.takeInHand
  by_cases hidle : s.link.stage = .idle
  · rw [if_pos ⟨hrun, hidle⟩]
    exact State.linkInv_takeHead (hstage.2 hidle) hidle hrun fun hm hs => (hl hm hs).2
  · rw [if_neg fun hx => hidle hx.2]
    have hne : s.link.inHand ≠ none := fun hn => hidle (hstage.1 hn)
    exact State.linkInv_of_busy (Option.isSome_iff_ne_none.2 hne) hidle hrun fun hm hs => absurd (hl hm hs).1 hne

theorem State.linkInv.offer {s : State} (h : s.linkInv) (b : FrameBody) : (s.offer b).linkInv := by
  unfold State.offer
  split
  next hactive =>
    obtain ⟨hrunning, hmode⟩ := hactive
    refine State.linkInv_takeInHand h.1 (State.running_iff.1 hrunning).2.1 fun hm => ?_
    exact nomatch hmode.symm.trans hm
  · exact h

/-- Every elementary act of the blocks keeps the transmitter's part. -/
theorem kept_linkInv : Kept State.linkInv where
  bay _ h := h
  seq _ h := h
  pub _ h := h
  event b h := State.linkInv_congr h (by simp) (by simp) (by simp)
  capture c h := State.linkInv_congr h (by simp) (by simp) (by simp)
  offer b h := h.offer b
  image _ _ h := h
  peer _ _ _ h := h
  own _ _ h := h
  job _ h := h
  enter _ _ h := h
  forget _ _ h := h
  claimsMuted h := h
  mute _ _ := State.linkInv_of_idle rfl rfl rfl
  armProbe h := h

/-! ### The yard link controller -/

theorem TxStage.turn_eq_idle {st : TxStage} {since : Option Nat} : st.turn since = .idle ↔ st = .idle := by
  cases st <;> simp [TxStage.turn]

theorem txAdvance_eq_idle {t : Nat} {st : TxStage} : txAdvance t st = .idle ↔ st = .idle := by
  cases st with
  | sending last =>
    rw [txAdvance]
    split <;> exact ⟨nofun, nofun⟩
  | idle | deferring since | echoWait last => rfl

section
variable {s : State} (h : s.linkInv)
include h

/-- With the link MUTED and no stop under way, nothing is listed. -/
theorem State.linkInv.list_of_muted (hstop : s.ctl.stopping = none) (hm : s.link.mode = .muted) : s.link.txList = [] :=
  h.2.2.2 hm hstop

theorem State.linkInv.startProbe (hrun : s.ctl.mode = .run) (hin : s.link.inHand = none) : s.startProbe.linkInv := by
  have hlist : s.link.txList = [] := h.2.1 hin
  refine State.linkInv_takeInHand h.1 hrun fun _ _ => ⟨hin, ?_⟩
  have hone : ∀ f, (insertFrame [] f).length = 1 := fun _ => rfl
  show (insertFrame s.link.txList _).length ≤ 1
  rw [hlist, hone]

theorem State.linkInv.probeExpiry (hrun : s.ctl.mode = .run) : s.probeExpiry.linkInv := by
  unfold State.probeExpiry
  split
  · split
    next hdue => exact h.startProbe hrun hdue.2.1
    · exact h
  · exact h

theorem State.linkInv.clearLink (hrun : s.ctl.mode = .run) : s.clearLink.linkInv := by
  unfold State.clearLink
  split
  next hidle =>
    have hclear : (s.setLink { s.link with dup := false }).linkInv := h
    exact hclear.startProbe hrun hidle.2
  · exact h

theorem State.linkInv.dropFrame (hstop : s.ctl.stopping = none) (hand : InHand) : (s.dropFrame hand).linkInv := by
  unfold State.dropFrame
  split
  · exact kept_linkInv.enterMuted h _
  next hm =>
    unfold State.probeDropped
    split
    · exact State.linkInv_of_idle rfl rfl (h.list_of_muted hstop hm)
    · exact kept_linkInv.enterMuted h _

theorem State.linkInv.attemptFailed (hstop : s.ctl.stopping = none) (collided : Bool) :
    (s.attemptFailed collided).linkInv := by
  unfold State.attemptFailed
  split
  · exact h
  next hand hin =>
    dsimp only
    split
    · exact State.linkInv_of_busy rfl nofun (h.2.2.1 (by rw [hin]; rfl)) h.2.2.2
    · exact h.dropFrame hstop _

theorem State.linkInv.attemptSent (hrun : s.ctl.mode = .run) (hstop : s.ctl.stopping = none) : s.attemptSent.linkInv := by
  unfold State.attemptSent
  split
  · exact h
  next hand _ =>
    unfold State.frameSent
    have hstage : (none : Option InHand) = none ↔ TxStage.idle = .idle := by simp
    dsimp only
    split
    next n r hold items hmode hbody =>
      refine State.linkInv_takeInHand ?_ (by simpa using hrun) fun hm => ?_
      · simp
      · have hm' : s.link.mode = .muted := by simpa using hm
        exact nomatch hmode.symm.trans hm'
    next n r hold items hmode hbody =>
      refine kept_linkInv.probeSent (kept_linkInv.event _ ?_) n
      exact State.linkInv_of_idle rfl rfl (h.list_of_muted hstop hmode)
    · refine State.linkInv_takeInHand hstage hrun fun hm _ => ⟨rfl, ?_⟩
      rw [State.setLink_link, h.list_of_muted hstop hm]
      exact Nat.zero_le 1

theorem State.linkInv.beginAttempt : s.beginAttempt.linkInv := by
  unfold State.beginAttempt
  split
  next hand t hin hst =>
    split
    · have hsome : s.link.inHand.isSome = true := by rw [hin]; rfl
      exact State.linkInv_of_busy hsome nofun (h.2.2.1 hsome) h.2.2.2
    · exact h
  · exact h

theorem State.linkInv.mediumTurnsBusy : s.mediumTurnsBusy.linkInv := by
  unfold State.mediumTurnsBusy
  split
  · exact h
  · obtain ⟨hstage, hlist, hrun, hmuted⟩ := h
    exact ⟨hstage.trans TxStage.turn_eq_idle.symm, hlist, hrun, hmuted⟩

theorem State.linkInv.mediumTurnsIdle : s.mediumTurnsIdle.linkInv := by
  unfold State.mediumTurnsIdle
  split
  · obtain ⟨hstage, hlist, hrun, hmuted⟩ := h
    exact ⟨hstage.trans TxStage.turn_eq_idle.symm, hlist, hrun, hmuted⟩
  · exact h

theorem State.linkInv.tick : (tick s).linkInv := by
  unfold Machine.tick
  split
  · obtain ⟨hstage, hlist, hrun, hmuted⟩ := h
    exact ⟨hstage.trans txAdvance_eq_idle.symm, hlist, hrun, hmuted⟩
  · exact h

end

end Sys2Proof.Machine
end

section
/-! PROOFS. Requests, starts and stops on a unit whose work hangs together (R10, R13 to R17, R166, R167). -/
namespace Sys2Proof.Machine

theorem State.workInv_iff {s : State} (hs : s.supplied = true) :
    s.workInv ↔ s.modeInv ∧ s.portInv ∧ s.Sound ∧ s.linkInv := by
  rw [State.workInv, State.sound_iff]
  constructor
  · intro h
    obtain ⟨hmode, hport, hprogram, hdrive, hclaim, hlink⟩ := h hs
    exact ⟨hmode, hport, ⟨hprogram, hdrive, hclaim⟩, hlink⟩
  · rintro ⟨hmode, hport, ⟨hprogram, hdrive, hclaim⟩, hlink⟩ -
    exact ⟨hmode, hport, hprogram, hdrive, hclaim, hlink⟩

theorem State.Sound.setPort {s : State} (h : s.Sound) (p : Port) : (s.setPort p).Sound :=
  h.congr rfl rfl rfl rfl (fun _ => rfl) rfl

/-- What every act of the unit leaves: work that hangs together, and no new drive but one of R28, R90 and R152. -/
structure Safe (s t : State) : Prop where
  work : t.workInv
  energised : s.bay.drive = none → ∀ d, t.bay.drive = some d → t.supplied = true ∧ t.Energised d

theorem Safe.of_undriven {s t : State} (h : t.workInv) (hd : s.bay.drive = none → t.bay.drive = none) : Safe s t :=
  ⟨h, fun hnone _ hdrive => nomatch (hd hnone).symm.trans hdrive⟩

theorem Safe.refl {s : State} (h : s.workInv) : Safe s s := .of_undriven h id

theorem Safe.of_ordered {s t : State} (h : t.workInv) (ht : t.supplied = true) (ho : Ordered s t) : Safe s t :=
  ⟨h, fun hnone d hdrive => ⟨ht, ho.permitted hnone d hdrive⟩⟩

theorem Safe.after {s t u : State} (h : Safe t u) (hd : s.bay.drive = none → t.bay.drive = none) : Safe s u :=
  ⟨h.work, fun hnone => h.energised (hd hnone)⟩

/-- An act of the blocks: start-up control and the request in hand are as before. -/
theorem Safe.of_steady {s t : State} (h : s.workInv) (hs : s.supplied = true) (ho : Ordered s t) (hl : t.linkInv)
    (hseq : s.ctl.stopping = none ∨ t.seq = s.seq) (hctl : t.ctl = s.ctl := by simp)
    (hsup : t.supplied = s.supplied := by simp) (hin : t.port.inHand = s.port.inHand := by simp)
    (hwait : t.port.waiting = s.port.waiting := by simp) : Safe s t := by
  obtain ⟨⟨hstop, hwrite, hhalt, hempty⟩, ⟨hhand, hbehind⟩, -, -⟩ := (State.workInv_iff hs).1 h
  have ht : t.supplied = true := hsup.trans hs
  refine .of_ordered ((State.workInv_iff ht).2 ⟨⟨?_, ?_, ?_, fun hx => ?_⟩, ⟨?_, ?_⟩, ho.sound, hl⟩) ht ho
  · rw [hctl]; exact hstop
  · rw [hctl]; exact hwrite
  · rw [hctl]; exact hhalt
  · rw [hctl] at hx
    rcases hseq with hnone | hsame
    · exact nomatch hnone.symm.trans hx
    · rw [hsame]; exact hempty hx
  · rw [hin, hctl]; exact hhand
  · rw [hwait, hin]; exact hbehind

/-! ### A unit between requests -/

/-- A unit with no stop under way and no block being stored: what a request in hand is taken on. -/
structure State.Calm (s : State) : Prop where
  supplied : s.supplied = true
  stopping : s.ctl.stopping = none
  write : s.ctl.blockWrite = none
  halt : s.ctl.haltCause.isSome = true ↔ s.ctl.mode = .halted
  sound : s.Sound
  link : s.linkInv

theorem State.Calm.workInv {s : State} (h : s.Calm) (hin : s.port.inHand = none) (hw : s.port.waiting = none) :
    s.workInv := by
  obtain ⟨hs, hstop, hwrite, hhalt, hsound, hlink⟩ := h
  refine (State.workInv_iff hs).2 ⟨⟨?_, ?_, hhalt, ?_⟩, ⟨?_, ?_⟩, hsound, hlink⟩
  all_goals simp [hstop, hwrite, hin, hw]

/-- With no request in hand the unit is calm, and none waits. -/
theorem State.workInv.calm {s : State} (h : s.workInv) (hs : s.supplied = true) (hin : s.port.inHand = none) :
    s.Calm ∧ s.port.waiting = none := by
  obtain ⟨⟨-, -, hhalt, -⟩, ⟨hhand, hbehind⟩, hsound, hlink⟩ := (State.workInv_iff hs).1 h
  rw [hin, Option.isSome_none] at hhand hbehind
  have hnone : ¬ (s.ctl.blockWrite.isSome = true ∨ s.ctl.stopping.isSome = true) := fun hx => nomatch hhand.2 hx
  rw [not_or, Option.not_isSome_iff_eq_none, Option.not_isSome_iff_eq_none] at hnone
  refine ⟨⟨hs, hnone.2, hnone.1, hhalt, hsound, hlink⟩, ?_⟩
  rw [← Option.not_isSome_iff_eq_none]
  exact fun hx => nomatch hbehind hx

/-- An act of the blocks on a calm unit. -/
theorem State.Calm.after {s t : State} (h : s.Calm) (ht : t.Sound) (hl : t.linkInv) (hctl : t.ctl = s.ctl := by simp)
    (hsup : t.supplied = s.supplied := by simp) : t.Calm := by
  obtain ⟨hs, hstop, hwrite, hhalt, -, -⟩ := h
  exact ⟨hsup.trans hs, by rw [hctl]; exact hstop, by rw [hctl]; exact hwrite, by rw [hctl]; exact hhalt, ht, hl⟩

/-- What a drive rests on is not in the bay port or the link. -/
theorem State.Energised.congr {s t : State} {d : DriveRecord} (h : s.Energised d) (hi : t.image = s.image)
    (hc : t.ctl = s.ctl) (hm : t.micros = s.micros) (hb : t.bay = s.bay) (hq : t.seq = s.seq)
    (hcl : t.claims = s.claims) : t.Energised d := by
  obtain ⟨heval, hguard, p, ha, hp, hh, hidx, hst, hheld⟩ := h
  refine ⟨(State.evaluate_congr hi hc hm _ _).trans heval, ?_, p, by rw [hq]; exact ha, hp, hh, hidx, hst, fun z hz => ?_⟩
  · have hpoint : t.localPoint? d.switch = s.localPoint? d.switch := by rw [State.localPoint?, hb]; rfl
    rw [State.guardTimes_congr (by rw [hpoint]) hi hc]
    intro x hx
    have hreached : t.reached x = s.reached x := by rw [State.reached, State.now, hm]; rfl
    rw [hreached]
    exact hguard x hx
  · rw [State.own_congr hcl]
    exact hheld z hz

/-- A request answered after an act of the blocks on a calm unit. -/
theorem State.Calm.answered {s t : State} (h : s.Calm) (hw : s.port.waiting = none) (ho : Ordered s t) (hl : t.linkInv)
    (tg : Tagged) (status : ReplyStatus) (body : ReplyBody) (hctl : t.ctl = s.ctl := by simp)
    (hsup : t.supplied = s.supplied := by simp) (hwait : t.port.waiting = s.port.waiting := by simp) :
    Safe s (t.answer tg status body) := by
  have hcalm := h.after ho.sound hl hctl hsup
  have hanswer : (t.answer tg status body).Calm :=
    hcalm.after (hcalm.sound.congr rfl rfl rfl rfl (fun _ => rfl) rfl) hl
  refine ⟨hanswer.workInv rfl (hwait.trans hw), fun hnone d hdrive => ⟨hanswer.supplied, ?_⟩⟩
  exact (ho.permitted hnone d hdrive).congr rfl rfl rfl rfl rfl rfl

/-- A request answered with nothing else changed. -/
theorem State.Calm.answer {s : State} (h : s.Calm) (hw : s.port.waiting = none) (tg : Tagged) (status : ReplyStatus)
    (body : ReplyBody) : Safe s (s.answer tg status body) :=
  h.answered hw h.sound.ordered h.link tg status body rfl rfl rfl

/-! ### Starts and stops (R13 to R17) -/

/-- A unit with no program, nothing driven and nothing claimed is sound. -/
theorem State.Sound.of_empty {s : State} (hq : s.seq.queue = []) (ha : s.seq.active = none)
    (hn : 1 ≤ s.seq.nextHandle ∧ s.seq.nextHandle ≤ 255) (hd : s.bay.drive = none) (hr : s.bay.report = none)
    (ho : ∀ z, s.own z = .idle) (hj : s.claims.job = none) : s.Sound := by
  have huse : s.handlesInUse = [] := by rw [State.handlesInUse_eq, hq, ha]; rfl
  refine ⟨.of_rest ⟨?_, ?_, ?_, ?_, hn, ?_⟩ ha hd hr ho hj, fun _ => hq⟩
  all_goals simp [hq, ha, huse]

/-- Outside RUN no program is held, nothing is driven or claimed and no frame is in hand. -/
structure State.Bare (s : State) : Prop where
  queue : s.seq.queue = []
  active : s.seq.active = none
  next : 1 ≤ s.seq.nextHandle ∧ s.seq.nextHandle ≤ 255
  drive : s.bay.drive = none
  report : s.bay.report = none
  own : ∀ z, s.own z = .idle
  job : s.claims.job = none
  inHand : s.link.inHand = none
  stage : s.link.stage = .idle
  list : s.link.txList = []

theorem State.bare_of_not_run {s : State} (h : s.Sound) (hl : s.linkInv) (hm : s.ctl.mode ≠ .run) : s.Bare := by
  have hnone : ¬ (s.seq.active.isSome = true ∨ s.seq.queue ≠ []) := fun hx => hm (h.queue.mode hx)
  rw [not_or, Option.not_isSome_iff_eq_none, not_not] at hnone
  obtain ⟨ha, hq⟩ := hnone
  obtain ⟨hd, hr, ho, hj⟩ := h.at_rest ha
  obtain ⟨hstage, hlist, hrun, -⟩ := hl
  have hin : s.link.inHand = none := by
    rw [← Option.not_isSome_iff_eq_none]
    exact fun hx => hm (hrun hx)
  exact ⟨hq, ha, h.queue.next, hd, hr, ho, hj, hin, hstage.1 hin, hlist hin⟩

theorem State.Bare.sound {s : State} (h : s.Bare) : s.Sound :=
  .of_empty h.queue h.active h.next h.drive h.report h.own h.job

theorem State.Bare.linkInv {s : State} (h : s.Bare) : s.linkInv := State.linkInv_of_idle h.inHand h.stage h.list

/-- Every block after a start. -/
theorem State.start_calm {s : State} (hs : s.supplied = true) (cause : StartCause) : (s.start cause).Calm :=
  ⟨hs, rfl, rfl, ⟨nofun, nofun⟩, .of_empty rfl rfl ⟨Nat.le_refl 1, Nat.le_of_ble_eq_true rfl⟩ rfl rfl (fun _ => rfl) rfl,
    State.linkInv_of_idle rfl rfl rfl⟩

/-- The request of an orderly stop stays in hand (R17, R166). -/
theorem State.Calm.beginStop {s : State} (h : s.Calm) (hin : s.port.inHand.isSome = true) (hw : s.port.waiting = none)
    (hrun : s.ctl.mode = .run) (why : StopReason) (hwhy : why = .halt → s.seq.active = none ∧ s.seq.queue = []) :
    Safe s (s.beginStop why) := by
  obtain ⟨hs, hstop, hwrite, hhalt, hsound, -⟩ := h
  have hctl : (s.beginStop why).ctl = { s.ctl with stopping := some why } := by simp [State.beginStop]
  have hdrive : (s.beginStop why).bay.drive = none := by simp [State.beginStop]
  have hreport : (s.beginStop why).bay.report = none := by simp [State.beginStop]
  have hseq : (s.beginStop why).seq = s.seq := by simp
  refine .of_undriven ((State.workInv_iff (by simpa using hs)).2 ⟨⟨?_, ?_, ?_, ?_⟩, ⟨?_, ?_⟩, ⟨⟨?_, ?_, ⟨?_, ?_, ?_⟩, ?_⟩, ?_⟩, ?_⟩)
    fun _ => hdrive
  · rw [hctl]; exact fun _ => hrun
  · rw [hctl]; exact fun hx => absurd hwrite (Option.isSome_iff_ne_none.1 hx)
  · rw [hctl]; exact hhalt
  · rw [hctl, hseq]; exact fun hx => hwhy (Option.some.inj hx)
  · rw [hctl]; simpa using hin
  · simp [hw]
  · exact hsound.queue.congr (by rw [hseq]) (by rw [hseq]) (by rw [hseq]) (by rw [hctl])
  · rw [hseq]; exact hsound.step
  · exact fun d hd => nomatch hdrive.symm.trans hd
  · exact fun hx => absurd hreport (Option.isSome_iff_ne_none.1 hx)
  · rw [hctl]; exact fun _ hx => nomatch hx
  · exact State.claimInv_congr hsound.claim (by rw [hseq]) (State.own_congr (by simp)) (by simp)
  · rw [hseq]; exact hsound.taken
  · exact State.linkInv_takeHead rfl rfl hrun fun _ hx => nomatch hx

/-! ### Requests taken (R166 to R176) -/

theorem mode_of_admitted_operation {m : UnitMode} (h : modeRefusal m .operation = none) : m = .run := by
  cases m with
  | run => rfl
  | loading | halted | quiet => exact nomatch h

theorem mode_of_admitted_link {m : UnitMode} (h : modeRefusal m .link = none) : m = .run := by
  cases m with
  | run => rfl
  | loading | halted | quiet => exact nomatch h

theorem mode_of_admitted_store {m : UnitMode} (h : modeRefusal m .store = none) : m = .halted := by
  cases m with
  | halted => rfl
  | loading | run | quiet => exact nomatch h

theorem State.length_stepsOf (s : State) (fields : List StepField) : ∀ {steps : List Step},
    s.stepsOf fields = some steps → steps.length = fields.length := by
  induction fields with
  | nil => intro steps h; cases h; rfl
  | cons f rest ih =>
    intro steps h
    rw [State.stepsOf] at h
    split at h
    next st sts _ hrest =>
      cases h
      exact congrArg (· + 1) (ih hrest)
    · exact nomatch h

/-- A request of good form has 1 to 8 steps (R168). -/
theorem State.length_of_formOf {s : State} {urgency : Nat} {fields : List StepField} {steps : List Step}
    (h : s.formOf urgency fields = some steps) : 1 ≤ steps.length ∧ steps.length ≤ 8 := by
  unfold State.formOf at h
  split at h
  next hform =>
    rw [s.length_stepsOf fields h]
    exact hform.2
  · exact nomatch h

section
variable {s : State} (h : s.Calm) (hw : s.port.waiting = none)
include h hw

theorem State.Calm.takeReadStatus (t : Tagged) : Safe s (s.takeReadStatus t) :=
  h.answered (t := s.setPort { s.port with lost := false }) hw
    ((h.sound.setPort _).ordered_of rfl) h.link t _ _ rfl rfl rfl

theorem State.Calm.takeHalt {t : Tagged} (hin : s.port.inHand = some t) : Safe s (s.takeHalt t) := by
  unfold State.takeHalt
  split
  · exact h.answer hw t _ _
  next hfree =>
    rw [not_or, not_not, Option.not_isSome_iff_eq_none] at hfree
    split
    next hrun => exact h.beginStop (by rw [hin]; rfl) hw hrun _ fun _ => ⟨hfree.2, hfree.1⟩
    next hrun =>
      have hbare := State.bare_of_not_run h.sound h.link hrun
      have hhalt : s.enterHalt.Bare := ⟨rfl, rfl, ⟨Nat.le_refl 1, Nat.le_of_ble_eq_true rfl⟩, hbare.drive, hbare.report, hbare.own,
        hbare.job, hbare.inHand, hbare.stage, hbare.list⟩
      have hcalm : s.enterHalt.Calm := ⟨h.supplied, rfl, h.write, ⟨fun _ => rfl, fun _ => rfl⟩, hhalt.sound, hhalt.linkInv⟩
      exact (hcalm.answer hw t _ _).after id

theorem State.Calm.takeRestart {t : Tagged} (hin : s.port.inHand = some t) : Safe s (s.takeRestart t) := by
  unfold State.takeRestart
  have hreply : (s.reply t .ok .none).Calm :=
    h.after (h.sound.setPort _) h.link rfl rfl
  dsimp only
  split
  next hrun => exact (hreply.beginStop (by simp [State.reply, Port.reply, hin]) hw hrun .restart nofun).after id
  · have hstart := State.start_calm (s := s.reply t .ok .none) h.supplied .restart
    have hreleased : ((s.reply t .ok .none).start .restart).release.Calm :=
      hstart.after (hstart.sound.congr rfl rfl rfl rfl (fun _ => rfl) rfl) hstart.link rfl rfl
    exact .of_undriven (hreleased.workInv rfl hw) fun _ => rfl

theorem State.Calm.takeWriteConfig {t : Tagged} (hin : s.port.inHand = some t) (hmode : s.ctl.mode = .halted)
    (offset : Nat) (data : List Byte) : Safe s (s.takeWriteConfig t offset data) := by
  unfold State.takeWriteConfig
  split
  · have hbare := State.bare_of_not_run h.sound h.link (by rw [hmode]; exact nofun)
    have hsame : (s.setCtl { s.ctl with blockWrite := some { offset := offset, data := data } }).Bare :=
      ⟨hbare.queue, hbare.active, hbare.next, hbare.drive, hbare.report, hbare.own, hbare.job, hbare.inHand, hbare.stage,
        hbare.list⟩
    have hs : (s.setCtl { s.ctl with blockWrite := some { offset := offset, data := data } }).supplied = true := h.supplied
    refine .of_undriven ((State.workInv_iff hs).2 ⟨⟨?_, fun _ => hmode, h.halt, ?_⟩, ⟨?_, ?_⟩, hsame.sound,
      hsame.linkInv⟩) id
    · exact fun hx => absurd h.stopping (Option.isSome_iff_ne_none.1 hx)
    · exact fun hx => nomatch h.stopping.symm.trans hx
    · simp [hin]
    · simp [hw]
  · exact h.answer hw t _ _

theorem State.Calm.takeProgram (t : Tagged) (hrun : s.ctl.mode = .run) (urgency : Nat) (fields : List StepField) :
    Safe s (s.takeProgram t urgency fields) := by
  unfold State.takeProgram
  split
  · exact h.answer hw t _ _
  next steps hform =>
    obtain ⟨h1, h8⟩ := State.length_of_formOf hform
    split
    · exact h.answer hw t _ _
    · split
      · exact h.answer hw t _ _
      · split
        · exact h.answer hw t _ _
        next hroom =>
          exact h.answered hw (h.sound.enqueue hrun h.stopping (Nat.lt_of_not_le hroom) urgency h1 h8)
            (kept_linkInv.enqueue h.link urgency steps) t _ _

theorem State.Calm.takeCancel (t : Tagged) (handle : Nat) : Safe s (s.takeCancel t handle) := by
  unfold State.takeCancel
  split
  · exact h.answered hw (h.sound.cancel h.stopping handle) (kept_linkInv.cancel h.link handle) t _ _
  · exact h.answer hw t _ _

theorem State.Calm.clearSwitch (t : Tagged) (p : LocalPoint) : Safe s (s.clearSwitch t p) := by
  unfold State.clearSwitch
  split
  · split
    · have hbay : (s.clearMark p.id).bay.drive = s.bay.drive ∧ (s.clearMark p.id).bay.report = s.bay.report := by
        simp [State.clearMark, State.mapPoint]
      exact h.answered hw
        ((h.sound.congr (by simp) hbay.1 hbay.2 (by simp) (State.own_congr (by simp)) (by simp)).ordered_of hbay.1)
        (kept_linkInv.clearMark h.link p.id) t _ _
    · exact h.answer hw t _ _
  · exact h.answer hw t _ _

theorem State.Calm.takeClearFaultSwitch (t : Tagged) (point : Nat) : Safe s (s.takeClearFaultSwitch t point) := by
  unfold State.takeClearFaultSwitch
  split
  · exact h.answer hw t _ _
  · split
    · split
      · exact h.clearSwitch hw t _
      · exact h.answer hw t _ _
    · exact h.answer hw t _ _

theorem State.Calm.takeAdmitted {t : Tagged} (hin : s.port.inHand = some t)
    (hadmit : modeRefusal s.ctl.mode (requestRow t.request) = none) : Safe s (s.takeAdmitted t) := by
  have hport : ∀ p : Port, p.waiting = s.port.waiting → ∀ status body, Safe s ((s.setPort p).answer t status body) :=
    fun p hp status body =>
      h.answered (t := s.setPort p) hw ((h.sound.setPort p).ordered_of rfl) h.link t status body rfl rfl hp
  unfold State.takeAdmitted
  split
  next => exact h.takeReadStatus hw t
  next => exact h.takeRestart hw hin
  next => exact h.takeHalt hw hin
  next offset data heq =>
    rw [heq] at hadmit
    exact h.takeWriteConfig hw hin (mode_of_admitted_store hadmit) offset data
  next heq =>
    rw [heq] at hadmit
    exact h.takeProgram hw t (mode_of_admitted_operation hadmit) _ _
  next heq =>
    rw [heq] at hadmit
    exact h.takeProgram hw t (mode_of_admitted_operation hadmit) _ _
  next handle _ => exact h.takeCancel hw t handle
  next point target _ =>
    unfold State.takeCheck
    split
    · exact h.answer hw t _ _
    · split
      · exact h.answer hw t _ _
      · exact h.answer hw t _ _
  next point _ =>
    unfold State.takeReadPoint
    split
    · exact h.answer hw t _ _
    · exact h.answer hw t _ _
  next node _ =>
    unfold State.takeReadNode
    split
    · exact h.answer hw t _ _
    · exact h.answer hw t _ _
  next => exact h.answer hw t _ _
  next =>
    unfold State.takeReadEvent
    split
    · exact h.answer hw t _ _
    next e rest _ => exact hport { s.port with events := rest } rfl _ _
  next =>
    unfold State.takeReadCapture
    split
    · exact h.answer hw t _ _
    · exact h.answer hw t _ _
  next => exact hport { s.port with capture := none } rfl _ _
  next point _ => exact h.takeClearFaultSwitch hw t point
  next heq =>
    rw [heq] at hadmit
    exact h.answered hw ((h.sound.congr (by simp) (by simp) (by simp) (by simp) (State.own_congr (by simp))
      (by simp)).ordered_of (by simp)) (h.link.clearLink (mode_of_admitted_link hadmit)) t _ _
  next => exact h.answer hw t _ _

/-- The request in hand taken, with none waiting. -/
theorem State.Calm.takeRequest {t : Tagged} (hin : s.port.inHand = some t) : Safe s (s.takeRequest t) := by
  unfold State.takeRequest
  split
  · exact h.answer hw t _ _
  next hadmit => exact h.takeAdmitted hw hin hadmit

end

/-- A request that becomes the one in hand on a calm unit. -/
theorem State.Calm.takeInPort {s : State} (h : s.Calm) (hw : s.port.waiting = none) (t : Tagged) :
    Safe s (s.takeInPort t) := by
  have hhand : (s.setPort { s.port with inHand := some t }).Calm :=
    h.after (h.sound.setPort _) h.link rfl rfl
  exact (hhand.takeRequest hw rfl).after id

/-- The waiting request taken once none is in hand (R166). -/
theorem State.Calm.pump {s : State} (h : s.Calm) (hin : s.port.inHand = none) : Safe s s.pump := by
  unfold State.pump
  split
  next t _ _ =>
    have hnext : (s.setPort { s.port with waiting := none }).Calm :=
      h.after (h.sound.setPort _) h.link rfl rfl
    exact (hnext.takeInPort rfl t).after id
  next hnone =>
    refine .refl (h.workInv hin ?_)
    rw [Option.eq_none_iff_forall_ne_some]
    exact fun t ht => hnone t hin ht

end Sys2Proof.Machine
end

section
/-! PROOFS. Every command keeps the unit's work together, and a coil is energised only on a permit (R28, R90, R152). -/
namespace Sys2Proof.Machine

/-! ### Supply, loading and the quiet time (section 1.5) -/

theorem State.powerOnStart_workInv (s : State) : s.powerOnStart.workInv :=
  (State.start_calm (s := ((s.setSupplied true).setMicros 0).setPort { s.port with inHand := none, waiting := none }) rfl
    .powerOn).workInv rfl rfl

theorem Safe.powerOn (s : State) : Safe s s.powerOnStart := .of_undriven s.powerOnStart_workInv fun _ => rfl

theorem State.loseSupply_unsupplied (s : State) : s.loseSupply.supplied = false := rfl

/-- Without supply nothing has to agree. -/
theorem State.workInv_of_unsupplied {s : State} (hs : s.supplied = false) : s.workInv :=
  fun h => nomatch hs.symm.trans h

theorem Safe.loseSupply (s : State) : Safe s s.loseSupply :=
  .of_undriven (State.workInv_of_unsupplied s.loseSupply_unsupplied) fun _ => rfl

/-- A zone of freshly built claims is IDLE. -/
theorem own_of_build {s : State} {m : YardModel} (h : s.claims = .build m) (z : Nat) : s.own z = .idle := by
  rw [State.own, State.zone?, h, Claims.build]
  split
  next c hc =>
    obtain ⟨d, -, rfl⟩ := List.mem_map.1 (List.mem_of_find?_eq_some hc)
    rfl
  · rfl

section
variable {s : State} (h : s.workInv) (hs : s.supplied = true)
include h hs

theorem State.workInv.sound : s.Sound := ((State.workInv_iff hs).1 h).2.2.1

theorem State.workInv.link : s.linkInv := ((State.workInv_iff hs).1 h).2.2.2

/-- Outside RUN and HALTED no request is in hand. -/
theorem State.workInv.calm_of_mode (hrun : s.ctl.mode ≠ .run) (hhalted : s.ctl.mode ≠ .halted) :
    s.Calm ∧ s.port.inHand = none ∧ s.port.waiting = none := by
  obtain ⟨⟨hstop, hwrite, -, -⟩, ⟨hhand, -⟩, -, -⟩ := (State.workInv_iff hs).1 h
  have hin : s.port.inHand = none := by
    rw [← Option.not_isSome_iff_eq_none, hhand]
    rintro (hx | hx)
    · exact hhalted (hwrite hx)
    · exact hrun (hstop hx)
  exact ⟨(h.calm hs hin).1, hin, (h.calm hs hin).2⟩

theorem Safe.endLoading (hmode : s.ctl.mode = .loading) : Safe s s.endLoading := by
  have hrun : s.ctl.mode ≠ .run := by rw [hmode]; exact nofun
  obtain ⟨hcalm, hin, hw⟩ := h.calm_of_mode hs hrun (by rw [hmode]; exact nofun)
  have hbare := State.bare_of_not_run hcalm.sound hcalm.link hrun
  have hcause : s.ctl.haltCause = none := by
    rw [← Option.not_isSome_iff_eq_none, hcalm.halt, hmode]
    exact nofun
  unfold State.endLoading
  split
  next m _ =>
    have hquiet : (s.enterQuiet m).Bare := ⟨hbare.queue, hbare.active, hbare.next, hbare.drive, hbare.report,
      own_of_build (m := m) rfl, rfl, hbare.inHand, hbare.stage, hbare.list⟩
    have hready : (s.enterQuiet m).Calm := by
      refine ⟨hs, hcalm.stopping, hcalm.write, ?_, hquiet.sound, hquiet.linkInv⟩
      show s.ctl.haltCause.isSome = true ↔ UnitMode.quiet = .halted
      rw [hcause]
      exact ⟨nofun, nofun⟩
    exact .of_undriven (hready.workInv hin hw) id
  next c _ =>
    have hhalted : (s.enterHalted c).Bare := ⟨hbare.queue, hbare.active, hbare.next, hbare.drive, hbare.report, hbare.own,
      hbare.job, hbare.inHand, hbare.stage, hbare.list⟩
    have hready : (s.enterHalted c).Calm :=
      ⟨hs, rfl, hcalm.write, ⟨fun _ => rfl, fun _ => rfl⟩, hhalted.sound, hhalted.linkInv⟩
    exact .of_undriven (hready.workInv hin hw) id

theorem Safe.enterRun (hmode : s.ctl.mode = .quiet) : Safe s s.enterRun := by
  have hrun : s.ctl.mode ≠ .run := by rw [hmode]; exact nofun
  obtain ⟨hcalm, hin, hw⟩ := h.calm_of_mode hs hrun (by rw [hmode]; exact nofun)
  have hbare := State.bare_of_not_run hcalm.sound hcalm.link hrun
  have hcause : s.ctl.haltCause = none := by
    rw [← Option.not_isSome_iff_eq_none, hcalm.halt, hmode]
    exact nofun
  have hentered : (s.setCtl { s.ctl with mode := .run }).Bare := ⟨hbare.queue, hbare.active, hbare.next, hbare.drive,
    hbare.report, hbare.own, hbare.job, hbare.inHand, hbare.stage, hbare.list⟩
  have hready : (s.setCtl { s.ctl with mode := .run }).Calm := by
    refine ⟨hs, hcalm.stopping, hcalm.write, ?_, hentered.sound, hentered.linkInv⟩
    show s.ctl.haltCause.isSome = true ↔ UnitMode.run = .halted
    rw [hcause]
    exact ⟨nofun, nofun⟩
  have hsound : s.enterRun.Sound := hready.sound.congr (by simp [State.enterRun]) (by simp [State.enterRun])
    (by simp [State.enterRun]) (by simp [State.enterRun]) (State.own_congr (by simp [State.enterRun])) (by simp [State.enterRun])
  have hstarted : s.enterRun.Calm := hready.after hsound (kept_linkInv.countState hready.link 0) (by simp [State.enterRun])
    (by simp [State.enterRun])
  exact .of_undriven (hstarted.workInv (by simpa [State.enterRun] using hin) (by simpa [State.enterRun] using hw))
    fun hd => by simpa [State.enterRun] using hd

/-! ### Stored blocks and orderly stops (R10, R16, R17, R106) -/

theorem Safe.blockStored {w : BlockWrite} (hw : s.ctl.blockWrite = some w) : Safe s (s.blockStored w) := by
  obtain ⟨⟨hstop, hwrite, hhalt, -⟩, ⟨hhand, -⟩, hsound, hlink⟩ := (State.workInv_iff hs).1 h
  have hmode : s.ctl.mode = .halted := hwrite (by rw [hw]; rfl)
  have hnostop : s.ctl.stopping = none := by
    rw [← Option.not_isSome_iff_eq_none]
    exact fun hx => nomatch (hstop hx).symm.trans hmode
  obtain ⟨tg, htg⟩ := Option.isSome_iff_exists.1 (hhand.2 (.inl (by rw [hw]; rfl)))
  have hbare := State.bare_of_not_run hsound hlink (by rw [hmode]; exact nofun)
  have hanswered : ((s.storeBlock w).answer tg .ok .none).Bare := ⟨hbare.queue, hbare.active, hbare.next, hbare.drive,
    hbare.report, hbare.own, hbare.job, hbare.inHand, hbare.stage, hbare.list⟩
  have hcalm : ((s.storeBlock w).answer tg .ok .none).Calm :=
    ⟨hs, hnostop, rfl, hhalt, hanswered.sound, hanswered.linkInv⟩
  have hport : (s.storeBlock w).port.inHand = some tg := htg
  rw [State.blockStored, hport]
  exact (hcalm.pump rfl).after id

theorem Safe.finishStop (hrun : s.ctl.mode = .run) (hin : s.link.inHand = none) (hst : s.link.stage = .idle)
    (hl : s.link.txList = []) : Safe s s.finishStop := by
  obtain ⟨⟨-, hwrite, hhalt, hempty⟩, ⟨hhand, -⟩, hsound, -⟩ := (State.workInv_iff hs).1 h
  unfold State.finishStop
  split
  next hstop =>
    have hstart := State.start_calm hs .restart
    have hreleased : (s.start .restart).release.Calm := hstart.after (hstart.sound.setPort _) hstart.link rfl rfl
    exact (hreleased.pump rfl).after fun _ => rfl
  next hstop =>
    obtain ⟨ha, hq⟩ := hempty hstop
    obtain ⟨hd, hr, ho, hj⟩ := hsound.at_rest ha
    obtain ⟨tg, htg⟩ := Option.isSome_iff_exists.1 (hhand.2 (.inr (by rw [hstop]; rfl)))
    have hnowrite : s.ctl.blockWrite = none := by
      rw [← Option.not_isSome_iff_eq_none]
      exact fun hx => nomatch (hwrite hx).symm.trans hrun
    have hbare : (s.enterHalt.answer tg .ok .none).Bare :=
      ⟨rfl, rfl, ⟨Nat.le_refl 1, Nat.le_of_ble_eq_true rfl⟩, hd, hr, ho, hj, hin, hst, hl⟩
    have hcalm : (s.enterHalt.answer tg .ok .none).Calm :=
      ⟨hs, rfl, hnowrite, ⟨fun _ => rfl, fun _ => rfl⟩, hbare.sound, hbare.linkInv⟩
    have hport : s.enterHalt.port.inHand = some tg := htg
    have hanswered : s.haltAnswered = s.enterHalt.answer tg .ok .none := by rw [State.haltAnswered, hport]
    rw [hanswered]
    exact (hcalm.pump rfl).after id
  · exact .refl h

theorem Safe.nextStopFrame (hrun : s.ctl.mode = .run) (hstop : s.ctl.stopping.isSome = true) : Safe s s.nextStopFrame := by
  have hnotnone : s.ctl.stopping ≠ none := Option.isSome_iff_ne_none.1 hstop
  have hstep : ∀ t : State, t.linkInv → t = { s with link := t.link } → Safe s t := by
    intro t hl ht
    refine .of_steady h hs ((h.sound hs).congr ?_ ?_ ?_ ?_ (State.own_congr ?_) ?_ |>.ordered_of ?_) hl (.inr ?_) ?_ ?_ ?_ ?_
    all_goals rw [ht]
  unfold State.nextStopFrame
  dsimp only
  split
  next hl =>
    have hidle : (s.setLink { s.link with inHand := none, stage := .idle }).linkInv := State.linkInv_of_idle rfl rfl hl
    exact (Safe.finishStop (hstep _ hidle rfl).work hs hrun rfl rfl hl).after id
  · refine hstep _ (State.linkInv_takeHead rfl rfl hrun fun _ hx => absurd hx hnotnone) ?_
    unfold State.takeHead
    split
    · rfl
    · rfl

end

/-! ### Requests received (R166, R181) -/

theorem Safe.receiveRequest {s : State} (h : s.workInv) (t : Tagged) : Safe s (s.receiveRequest t) := by
  unfold State.receiveRequest
  split
  next hs =>
    split
    next hin =>
      obtain ⟨hcalm, hw⟩ := h.calm hs hin
      exact hcalm.takeInPort hw t
    next x hin hw =>
      obtain ⟨hmode, ⟨hhand, -⟩, hsound, hlink⟩ := (State.workInv_iff hs).1 h
      have hs' : (s.setPort { s.port with waiting := some t }).supplied = true := hs
      exact .of_undriven ((State.workInv_iff hs').2
        ⟨hmode, ⟨hhand, fun _ => congrArg Option.isSome hin⟩, hsound.setPort _, hlink⟩) id
    · exact .of_steady h hs (((h.sound hs).setPort _).ordered_of rfl) (h.link hs) (.inr rfl) rfl rfl rfl rfl
  · exact .refl h

theorem Safe.receiveRecord {s : State} (h : s.workInv) (record : List Byte) : Safe s (s.receiveRecord record) := by
  unfold State.receiveRecord
  split
  · exact .receiveRequest h _
  · exact .refl h

theorem receiveRecords_workInv (l : List (List Byte)) : ∀ {s : State}, s.workInv → (receiveRecords l s).workInv := by
  induction l with
  | nil => exact id
  | cons r rest ih => exact fun h => ih (Safe.receiveRecord h r).work

/-! ### The commands -/

/-- A command that acts where a condition holds, and else not at all. -/
theorem Safe.guarded {s t : State} {c : Prop} [Decidable c] (h : s.workInv) (ht : c → Safe s t) :
    Safe s (if c then t else s) := by
  split
  next hc => exact ht hc
  · exact .refl h

section
variable {s : State} (h : s.workInv)
include h

theorem Safe.receive (f : Frame) : Safe s (s.receive f) := by
  cases hr : s.receiving with
  | false =>
    rw [State.receive, if_pos (.inl hr)]
    exact .refl h
  | true =>
    obtain ⟨hs, -, hstop⟩ := State.receiving_iff.1 hr
    exact .of_steady h hs ((h.sound hs).receive f) (kept_linkInv.receive (h.link hs) f) (.inl hstop)

theorem Safe.ofRunning {t : State} (hrun : s.running = true) (ho : s.supplied = true → s.ctl.stopping = none → Ordered s t)
    (hl : s.linkInv → t.linkInv) (hctl : t.ctl = s.ctl := by simp) (hsup : t.supplied = s.supplied := by simp)
    (hin : t.port.inHand = s.port.inHand := by simp) (hwait : t.port.waiting = s.port.waiting := by simp) : Safe s t := by
  obtain ⟨hs, -, hstop⟩ := State.running_iff.1 hrun
  exact .of_steady h hs (ho hs hstop) (hl (h.link hs)) (.inl hstop) hctl hsup hin hwait

/-- An act that leaves start-up control, the programs, the claims and the bay alone. -/
theorem Safe.ofLink {t : State} (hs : s.supplied = true) (hl : t.linkInv) (hseq : t.seq = s.seq := by simp)
    (hbay : t.bay = s.bay := by simp) (hclaims : t.claims = s.claims := by simp) (hctl : t.ctl = s.ctl := by simp)
    (hsup : t.supplied = s.supplied := by simp) (hin : t.port.inHand = s.port.inHand := by simp)
    (hwait : t.port.waiting = s.port.waiting := by simp) : Safe s t := by
  have hsound : t.Sound := (h.sound hs).congr hseq (by rw [hbay]) (by rw [hbay]) hctl (State.own_congr hclaims)
    (by rw [hclaims])
  exact .of_steady h hs (hsound.ordered_of (by rw [hbay])) hl (.inr hseq) hctl hsup hin hwait

end

theorem Safe.lapseStored {s : State} (h : s.workInv) (hs : s.supplied = true) (which : StoredTime) :
    Safe s (s.lapseStored which) := by
  have hsound := h.sound hs
  have hlink := h.link hs
  cases which with
  | completion id =>
    have hforgot : (s.mapPoint id fun p => { p with completion := s.lapse p.completion }).Sound :=
      hsound.congr rfl rfl rfl rfl (fun _ => rfl) rfl
    exact .of_steady h hs (hforgot.ordered_of rfl) hlink (.inr rfl) rfl rfl rfl rfl
  | movement z => exact .ofLink h hs hlink rfl rfl rfl rfl rfl rfl rfl

/-- A failed attempt leaves the frame in hand, or the link MUTED. -/
theorem State.Sound.attemptFailed {s : State} (h : s.Sound) (collided : Bool) : (s.attemptFailed collided).Sound := by
  have hlink : ∀ l : Link, (s.setLink l).Sound := fun _ => h.congr rfl rfl rfl rfl (fun _ => rfl) rfl
  unfold State.attemptFailed
  split
  · exact h
  · dsimp only
    split
    · exact hlink _
    · unfold State.dropFrame
      split
      · exact h.enterMuted _
      · unfold State.probeDropped
        split
        · exact hlink _
        · exact h.enterMuted _

/-- In an orderly stop the selector's turn leaves the programs alone (log 12). -/
theorem State.filterSelector_seq {s : State} (h : s.ctl.stopping ≠ none) : s.filterSelector.seq = s.seq := by
  unfold State.filterSelector
  split
  · rfl
  next r since _ =>
    split
    · dsimp only
      split
      · rfl
      · rw [if_neg]
        · simp
        · exact fun hx => h (State.running_iff.1 hx.2).2.2
    · rfl

theorem Safe.inStop {s : State} (h : s.workInv) {c : Prop} [Decidable c] (hc : c → s.inStop = true) :
    Safe s (if c then s.nextStopFrame else s) := by
  refine .guarded h fun hx => ?_
  have hstop := hc hx
  simp only [State.inStop, Bool.and_eq_true, beq_iff_eq] at hstop
  exact .nextStopFrame h hstop.1.1 hstop.1.2 hstop.2

/-- Every command on a unit with supply. -/
theorem exec_safe_of_supplied {c : Instr} {s t : State} (h : s.workInv) (hs : s.supplied = true)
    (hc : ∀ bytes, c ≠ .recordGapTimeout bytes) (hexec : exec c s = .next t) : Safe s t := by
  have hsound := h.sound hs
  have hlink := h.link hs
  cases c with
  | powerOn =>
    cases hexec
    rw [if_pos hs]
    exact (Safe.powerOn s.loseSupply).after fun _ => rfl
  | supplyFailure => cases hexec; exact .guarded h fun _ => .loseSupply s
  | loadingEnd => cases hexec; exact .guarded h fun hx => .endLoading h hs hx.2
  | quietTimeExpiry => cases hexec; exact .guarded h fun hx => .enterRun h hs hx.2.1
  | writeConfig tag offset data => cases hexec; exact .guarded h fun _ => .receiveRequest h _
  | configBlockStored =>
    cases hexec
    split
    next w hw => exact .guarded h fun _ => .blockStored h hs hw
    · exact .refl h
  | stopFrameOutcome outcome => cases hexec; exact .inStop h And.left
  | stopFrameSkip => cases hexec; exact .inStop h And.left
  | unknownRequestType tag type =>
    cases hexec
    split
    · exact .refl h
    · exact .receiveRequest h _
  | requestRecordDiscard record => cases hexec; exact .receiveRecord h record
  | overrun tag type =>
    cases hexec
    exact .guarded h fun _ => .ofLink h hs hlink rfl rfl rfl rfl rfl rfl rfl
  | recordGapTimeout bytes => exact absurd rfl (hc bytes)
  | rawInputChange line made =>
    cases hexec
    exact .of_steady h hs (hsound.lineChange line made) (kept_linkInv.lineChange hlink line made) (.inr (by simp))
  | filterTimerExpiry input =>
    cases hexec
    refine .guarded h fun _ => ?_
    cases input with
    | point id => exact .of_steady h hs (hsound.filterPoint id) (kept_linkInv.filterPoint hlink id) (.inr (by simp))
    | selector =>
      refine .of_steady h hs hsound.filterSelector (kept_linkInv.filterSelector hlink) ?_
      by_cases hstop : s.ctl.stopping = none
      · exact .inl hstop
      · exact .inr (State.filterSelector_seq hstop)
  | runTimeExpiry =>
    cases hexec
    exact .guarded h fun _ => .of_steady h hs hsound.runExpiry (kept_linkInv.runExpiry hlink) (.inr (by simp))
  | stuckTimerExpiry switch =>
    cases hexec
    exact .guarded h fun _ =>
      .of_steady h hs (hsound.stuckExpiry switch) (kept_linkInv.stuckExpiry hlink switch) (.inr (by simp))
  | driveEndReport =>
    cases hexec
    exact .guarded h fun hr => .ofRunning h hr (fun _ _ => hsound.takeReport) kept_linkInv.takeReport
  | claimDeadline =>
    cases hexec
    exact .guarded h fun hr => .ofRunning h hr (fun _ hstop => hsound.claimExpiry hstop) kept_linkInv.claimExpiry
  | guardReleaseTime =>
    cases hexec
    exact .guarded h fun hr => .ofRunning h hr (fun _ hstop => hsound.guardRetest hstop) kept_linkInv.guardRetest
  | guardDeadline =>
    cases hexec
    exact .guarded h fun hr => .ofRunning h hr (fun _ hstop => hsound.guardExpiry hstop) kept_linkInv.guardExpiry
  | damagedFrame bytes =>
    cases hexec
    split
    · exact .receive h _
    · exact .refl h
  | peerExpiry unit => cases hexec; exact .guarded h fun _ => .ofLink h hs (kept_linkInv.expirePeer hlink unit)
  | storedTimeLapse which =>
    cases hexec
    exact .guarded h fun _ => .lapseStored h hs which
  | bulletin | ask | hold | drop | yieldRequest => cases hexec; exact .receive h _
  | secondAskTime zone =>
    cases hexec
    exact .guarded h fun hr => .ofRunning h hr (fun _ _ => (hsound.secondAsk zone).ordered_of (by simp))
      fun hl => kept_linkInv.secondAsk hl zone
  | windowEnd zone =>
    cases hexec
    exact .guarded h fun hr => .ofRunning h hr (fun _ hstop => hsound.closeWindow hstop zone)
      fun hl => kept_linkInv.closeWindow hl zone
  | refreshTime zone =>
    cases hexec
    exact .guarded h fun hr => .ofRunning h hr (fun _ _ => (hsound.refreshZone zone).ordered_of (by simp))
      fun hl => kept_linkInv.refreshZone hl zone
  | peerEntryExpiry zone unit =>
    cases hexec
    exact .guarded h fun _ => .of_steady h hs ((hsound.removeEntry zone unit _).ordered_of (by simp))
      (kept_linkInv.removeEntry hlink zone unit _) (.inr (by simp))
  | bulletinDue =>
    cases hexec
    split
    · exact .guarded h fun _ => .ofLink h hs (kept_linkInv.publishDue hlink)
    · exact .refl h
  | mediumBusy => cases hexec; exact .ofLink h hs hlink.mediumTurnsBusy
  | mediumIdle => cases hexec; exact .ofLink h hs hlink.mediumTurnsIdle
  | idleSpellComplete => cases hexec; exact .guarded h fun _ => .ofLink h hs hlink.beginAttempt
  | echoMatched =>
    cases hexec
    refine .guarded h fun hx => ?_
    obtain ⟨-, hrun, hstop⟩ := State.running_iff.1 hx.1
    exact .ofLink h hs (hlink.attemptSent hrun hstop)
  | echoMismatch =>
    cases hexec
    exact .guarded h fun hx => .ofRunning h hx.1 (fun _ _ => (hsound.attemptFailed true).ordered_of (by simp))
      fun hl => hl.attemptFailed (State.running_iff.1 hx.1).2.2 true
  | echoTimeout =>
    cases hexec
    exact .guarded h fun hx => .ofRunning h hx.1 (fun _ _ => (hsound.attemptFailed false).ordered_of (by simp))
      fun hl => hl.attemptFailed (State.running_iff.1 hx.1).2.2 false
  | probeTimerExpiry =>
    cases hexec
    exact .guarded h fun hr => .ofLink h hs (hlink.probeExpiry (State.running_iff.1 hr).2.1)
  | readStatus | restart | halt | operate | program | cancel | check | readPoint | readNode | readClaims | readEvent
  | readCapture | unlockCapture | clearFaultSwitch | clearFaultLink => cases hexec; exact .receiveRequest h _

/-- Every command on a unit whose work hangs together. -/
theorem exec_safe {c : Instr} {s t : State} (h : s.workInv) (hc : ∀ bytes, c ≠ .recordGapTimeout bytes)
    (hexec : exec c s = .next t) : Safe s t := by
  cases hs : s.supplied with
  | true => exact exec_safe_of_supplied h hs hc hexec
  | false =>
    have hsame : ∀ {u : State}, u.supplied = s.supplied → u.bay.drive = s.bay.drive → Safe s u := fun hsup hd =>
      .of_undriven (State.workInv_of_unsupplied (hsup.trans hs)) hd.trans
    by_cases hon : c = .powerOn
    · subst hon
      cases hexec
      rw [if_neg (by rw [hs]; exact nofun)]
      exact .powerOn s
    by_cases hbusy : c = .mediumBusy
    · subst hbusy
      cases hexec
      exact hsame (by simp) (by simp)
    by_cases hidle : c = .mediumIdle
    · subst hidle
      cases hexec
      exact hsame (by simp) (by simp)
    by_cases hraw : ∃ line made, c = .rawInputChange line made
    · obtain ⟨line, made, rfl⟩ := hraw
      cases hexec
      refine hsame (by simp) ?_
      unfold State.lineChange
      split
      · rfl
      · dsimp only
        have hw : (s.setBay { s.bay with lines := s.bay.lines.change line made }).working = false :=
          State.working_of_unsupplied hs
        rw [hw]
        rfl
    · rw [exec_of_unsupplied hs hon hbusy hidle fun line made heq => hraw ⟨line, made, heq⟩] at hexec
      cases hexec
      exact .refl h

theorem exec_workInv {c : Instr} {s t : State} (h : s.workInv) (hexec : exec c s = .next t) : t.workInv := by
  by_cases hc : ∃ bytes, c = .recordGapTimeout bytes
  · obtain ⟨bytes, rfl⟩ := hc
    cases hexec
    exact receiveRecords_workInv _ h
  · exact (exec_safe h (fun bytes heq => hc ⟨bytes, heq⟩) hexec).work

theorem State.workInv.tick {s : State} (h : s.workInv) : (tick s).workInv := by
  cases hs : s.supplied with
  | false =>
    rw [Machine.tick, hs]
    exact h
  | true => exact (Safe.ofLink h hs (h.link hs).tick).work

/-- Settles O58: a step is a microsecond or the front command's act, and both keep the work together. -/
theorem stepsKeepTheWorkTogether : Obligations.StepsKeepTheWorkTogether := by
  intro s t h hstep
  unfold step at hstep
  split at hstep
  · cases hstep
    exact h.tick
  next c rest _ => exact exec_workInv (s := s.setPending rest) h hstep

/-- Settles O60: what a command leaves that was not driven before rests on a permit, in a unit that works in RUN. -/
theorem coilsAreEnergisedOnlyOnAPermit : Obligations.CoilsAreEnergisedOnlyOnAPermit := by
  intro c s t d h hexec hc hnone hdrive
  obtain ⟨hwork, henergised⟩ := exec_safe h hc hexec
  obtain ⟨hs, heval, hguard, p, ha, hp⟩ := henergised hnone d hdrive
  refine ⟨?_, hs, heval, hguard, p, ha, hp⟩
  exact (hwork.sound hs).queue.mode (.inl (by rw [ha]; rfl))

/-- Settles O59: right after reset the tables are empty but for the peers, and nothing is in hand. -/
theorem resetHasTheInvariants : Obligations.ResetHasTheInvariants := by
  have hcalm : State.reset.Calm :=
    ⟨rfl, rfl, rfl, ⟨nofun, nofun⟩,
      .of_empty rfl rfl ⟨Nat.le_refl 1, Nat.le_of_ble_eq_true rfl⟩ rfl rfl (fun _ => rfl) rfl,
      State.linkInv_of_idle rfl rfl rfl⟩
  have hevents : State.reset.eventInv := Nat.le_of_ble_eq_true rfl
  exact ⟨⟨⟨rfl, nofun, nofun⟩, hevents, rfl, ⟨rfl, List.Pairwise.nil, nofun⟩, nofun, List.nodup_nil⟩,
    hcalm.workInv rfl rfl⟩

end Sys2Proof.Machine
end

section
/-! PROOFS. Every command has a next state; time passes in none and the store changes in those of blocks and supply alone. -/
namespace Sys2Proof.Machine

/-- What a command that is neither a start nor a storing leaves: the waiting commands, the time and the store (R10). -/
structure Timeless (s t : State) : Prop where
  pending : t.pending = s.pending
  micros : t.micros = s.micros
  store : t.ctl.store = s.ctl.store

theorem Timeless.refl (s : State) : Timeless s s := ⟨rfl, rfl, rfl⟩

theorem Timeless.trans {s t u : State} (h : Timeless s t) (h' : Timeless t u) : Timeless s u :=
  ⟨h'.pending.trans h.pending, h'.micros.trans h.micros, h'.store.trans h.store⟩

/-- An act that leaves start-up control alone. -/
theorem Timeless.of_ctl {s t : State} (hc : t.ctl = s.ctl := by simp) (hp : t.pending = s.pending := by simp)
    (hm : t.micros = s.micros := by simp) : Timeless s t := ⟨hp, hm, by rw [hc]⟩

theorem Timeless.guarded {s t : State} {c : Prop} [Decidable c] (ht : Timeless s t) : Timeless s (if c then t else s) := by
  split
  · exact ht
  · exact .refl s

/-! ### Requests -/

theorem Timeless.takeHalt (s : State) (t : Tagged) : Timeless s (s.takeHalt t) := by
  refine ⟨by simp, by simp, ?_⟩
  unfold State.takeHalt
  split
  · rfl
  · split
    · exact State.beginStop_store s _
    · rfl

theorem Timeless.takeWriteConfig (s : State) (t : Tagged) (offset : Nat) (data : List Byte) :
    Timeless s (s.takeWriteConfig t offset data) := by
  refine ⟨by simp, by simp, ?_⟩
  unfold State.takeWriteConfig
  split <;> rfl

theorem Timeless.takeAdmitted (s : State) (t : Tagged) : Timeless s (s.takeAdmitted t) := by
  unfold State.takeAdmitted
  split
  next => exact .of_ctl
  next => exact ⟨by simp, by simp, State.takeRestart_store s t⟩
  next => exact .takeHalt s t
  next => exact .takeWriteConfig s t _ _
  all_goals exact .of_ctl

theorem Timeless.takeInPort (s : State) (t : Tagged) : Timeless s (s.takeInPort t) := by
  have hhand : Timeless s (s.setPort { s.port with inHand := some t }) := .of_ctl
  refine hhand.trans ?_
  unfold State.takeInPort State.takeRequest
  split
  · exact .of_ctl
  · exact .takeAdmitted _ t

theorem Timeless.pump (s : State) : Timeless s s.pump := by
  unfold State.pump
  split
  · have hnext : Timeless s (s.setPort { s.port with waiting := none }) := .of_ctl
    exact hnext.trans (.takeInPort _ _)
  · exact .refl s

theorem Timeless.receiveRequest (s : State) (t : Tagged) : Timeless s (s.receiveRequest t) := by
  unfold State.receiveRequest
  split
  · split
    · exact .takeInPort s t
    · exact .of_ctl
    · exact .of_ctl
  · exact .refl s

theorem Timeless.receiveRecord (s : State) (record : List Byte) : Timeless s (s.receiveRecord record) := by
  unfold State.receiveRecord
  split
  · exact .receiveRequest s _
  · exact .refl s

theorem Timeless.receiveRecords (l : List (List Byte)) : ∀ s : State, Timeless s (receiveRecords l s) := by
  induction l with
  | nil => exact .refl
  | cons r rest ih => exact fun s => (Timeless.receiveRecord s r).trans (ih _)

/-! ### Control -/

theorem Timeless.nextStopFrame (s : State) : Timeless s s.nextStopFrame := by
  unfold State.nextStopFrame
  have hidle : Timeless s (s.setLink { s.link with inHand := none, stage := .idle }) := .of_ctl
  refine hidle.trans ?_
  dsimp only
  split
  · unfold State.finishStop
    split
    · have hstart : Timeless (s.setLink { s.link with inHand := none, stage := .idle })
          ((s.setLink { s.link with inHand := none, stage := .idle }).start .restart).release := ⟨rfl, rfl, rfl⟩
      exact hstart.trans (.pump _)
    · refine Timeless.trans ⟨by simp, by simp, ?_⟩ (.pump _)
      unfold State.haltAnswered
      dsimp only
      split <;> rfl
    · exact .refl _
  · exact .of_ctl

theorem Timeless.endLoading (s : State) : Timeless s s.endLoading := by
  refine ⟨by simp, by simp, ?_⟩
  unfold State.endLoading
  split <;> rfl

theorem Timeless.enterRun (s : State) : Timeless s s.enterRun := by
  have hrun : Timeless s (s.setCtl { s.ctl with mode := .run }) := ⟨rfl, rfl, rfl⟩
  have hstarted : Timeless (s.setCtl { s.ctl with mode := .run }) (s.setCtl { s.ctl with mode := .run }).publishStart :=
    .of_ctl
  exact hrun.trans hstarted

theorem Timeless.lineChange (s : State) (line : Line) (made : Bool) : Timeless s (s.lineChange line made) := .of_ctl

theorem Timeless.lapseStored (s : State) (which : StoredTime) : Timeless s (s.lapseStored which) := by
  cases which with
  | completion id => exact .of_ctl rfl rfl rfl
  | movement z => exact .of_ctl rfl rfl rfl

/-- Every command but those of the supply and of a stored block is timeless and leaves the store. -/
theorem exec_timeless {c : Instr} {s : State} (hon : c ≠ .powerOn) (hoff : c ≠ .supplyFailure)
    (hstored : c ≠ .configBlockStored) : ∃ t, exec c s = .next t ∧ Timeless s t := by
  cases c with
  | powerOn => exact absurd rfl hon
  | supplyFailure => exact absurd rfl hoff
  | configBlockStored => exact absurd rfl hstored
  | loadingEnd => exact ⟨_, rfl, (Timeless.endLoading s).guarded⟩
  | quietTimeExpiry => exact ⟨_, rfl, (Timeless.enterRun s).guarded⟩
  | writeConfig tag offset data => exact ⟨_, rfl, (Timeless.receiveRequest s _).guarded⟩
  | stopFrameOutcome outcome => exact ⟨_, rfl, (Timeless.nextStopFrame s).guarded⟩
  | stopFrameSkip => exact ⟨_, rfl, (Timeless.nextStopFrame s).guarded⟩
  | unknownRequestType tag type =>
    refine ⟨_, rfl, ?_⟩
    split
    · exact .refl s
    · exact .receiveRequest s _
  | requestRecordDiscard record => exact ⟨_, rfl, .receiveRecord s record⟩
  | overrun tag type => exact ⟨_, rfl, Timeless.guarded .of_ctl⟩
  | recordGapTimeout bytes => exact ⟨_, rfl, .receiveRecords _ s⟩
  | rawInputChange line made => exact ⟨_, rfl, .lineChange s line made⟩
  | filterTimerExpiry input =>
    refine ⟨_, rfl, Timeless.guarded ?_⟩
    cases input with
    | point id => exact .of_ctl
    | selector => exact .of_ctl
  | damagedFrame bytes =>
    refine ⟨_, rfl, ?_⟩
    split
    · exact .of_ctl
    · exact .refl s
  | storedTimeLapse which => exact ⟨_, rfl, (Timeless.lapseStored s which).guarded⟩
  | bulletinDue =>
    refine ⟨_, rfl, ?_⟩
    split
    · exact Timeless.guarded .of_ctl
    · exact .refl s
  | mediumBusy | mediumIdle | bulletin | ask | hold | drop | yieldRequest => exact ⟨_, rfl, .of_ctl⟩
  | runTimeExpiry | stuckTimerExpiry | driveEndReport | claimDeadline | guardReleaseTime | guardDeadline | peerExpiry
  | secondAskTime | windowEnd | refreshTime | peerEntryExpiry | idleSpellComplete | echoMatched | echoMismatch | echoTimeout
  | probeTimerExpiry => exact ⟨_, rfl, Timeless.guarded .of_ctl⟩
  | readStatus | restart | halt | operate | program | cancel | check | readPoint | readNode | readClaims | readEvent
  | readCapture | unlockCapture | clearFaultSwitch | clearFaultLink => exact ⟨_, rfl, .receiveRequest s _⟩

/-- Settles O3: the commands of the supply and of a stored block one by one, the others together. -/
theorem everyCommandCompletes : Obligations.EveryCommandCompletes := by
  intro c s
  by_cases hon : c = .powerOn
  · subst hon
    refine ⟨_, rfl, ?_, absurd rfl, absurd rfl⟩
    split <;> simp
  by_cases hoff : c = .supplyFailure
  · subst hoff
    refine ⟨_, rfl, ?_, fun _ => ?_, fun _ => absurd rfl⟩
    · split <;> simp
    · split <;> simp
  by_cases hstored : c = .configBlockStored
  · subst hstored
    refine ⟨_, rfl, ?_, fun _ => ?_, fun _ _ => absurd rfl⟩
    · split
      · split <;> simp
      · rfl
    · split
      · split <;> simp
      · rfl
  · obtain ⟨t, hexec, hpending, hmicros, hstore⟩ := exec_timeless (s := s) hon hoff hstored
    exact ⟨t, hexec, hpending, fun _ => hmicros, fun _ _ _ => hstore⟩

end Sys2Proof.Machine
end

section
/-! PROOFS. Bytes with their CRC, frames read back, and the images that loading finds damaged (R11, R179, R180). -/
namespace Sys2Proof.Machine

/-! ### The CRC at the end of some bytes (R179) -/

theorem dec16_eq_iff {a b : Byte} {n : Nat} (hn : n < 65536) : [a, b] = enc16 n ↔ dec16 a b = n := by
  constructor
  · intro h
    have hbytes : a = byteOf (n / 256) ∧ b = byteOf n := by simpa [enc16] using h
    rw [hbytes.1, hbytes.2, dec16_enc16 n hn]
  · rintro rfl
    exact (enc16_dec16 a b).symm

theorem drop_last_two {l : List Byte} (h : 2 ≤ l.length) :
    l.drop (l.length - 2) = [l.getD (l.length - 2) 0, l.getD (l.length - 1) 0] := by
  refine List.ext_getElem (by simp; omega) fun i h1 h2 => ?_
  have hi : i = 0 ∨ i = 1 := by
    rw [List.length_drop] at h1
    omega
  rcases hi with rfl | rfl
  · rw [List.getElem_drop]
    exact (List.getD_eq_getElem _ _ _).symm
  · rw [List.getElem_drop]
    have hlast : l.length - 2 + 1 = l.length - 1 := by omega
    rw [List.getElem_cons_succ, List.getElem_cons_zero, List.getD_eq_getElem _ _ (by omega)]
    simp only [hlast]

theorem crcGood_iff (bs : List Byte) : crcGood bs = true ↔ 2 ≤ bs.length ∧
    256 * (bs.getD (bs.length - 2) 0).toNat + (bs.getD (bs.length - 1) 0).toNat =
      (crc16 (bs.take (bs.length - 2))).toNat := by
  rw [crcGood, Bool.and_eq_true, decide_eq_true_eq, beq_iff_eq]
  refine and_congr_right fun h => ?_
  rw [drop_last_two h, dec16_eq_iff (crc16 _).isLt, dec16, Nat.mul_comm]

/-! ### Frames (section 12.2, R180) -/

theorem length_flatMap_itemBytes (items : List Item) : (items.flatMap Item.bytes).length = 4 * items.length := by
  induction items with
  | nil => rfl
  | cons i rest ih =>
    rw [List.flatMap_cons, List.length_append, ih, List.length_cons]
    simp [Item.bytes, enc16]
    omega

theorem FrameBody.length_bytes (b : FrameBody) : b.bytes.length = b.bodyLength := by
  cases b with
  | bulletin n r ms items =>
    simp only [FrameBody.bytes, FrameBody.bodyLength, List.length_append, length_flatMap_itemBytes, length_enc16,
      List.length_cons, List.length_nil]
  | ask | hold | drop | yieldRequest => rfl

theorem parseItems_bytes (items : List Item) (h : ∀ i ∈ items, i.point < 65536) : parseItems (items.flatMap Item.bytes) = items := by
  induction items with
  | nil => rfl
  | cons i rest ih =>
    have hrest := ih fun j hj => h j (List.mem_cons_of_mem _ hj)
    have hpoint := dec16_enc16 i.point (h i List.mem_cons_self)
    simp [Item.bytes, enc16, parseItems, hrest, hpoint]

/-- A body whose fields fit the bytes that carry them (section 12.2). -/
theorem parseBody_bytes {f : Frame} (h : f.wellFormed = true) : parseBody f.body.typeCode f.body.bytes = some f.body := by
  obtain ⟨sender, revision, body⟩ := f
  cases body with
  | bulletin n r ms items =>
    simp only [Frame.wellFormed, frameCommand, Instr.wellFormed, fits8, fits16, Item.wellFormed, Config.maxItems,
      Bool.and_eq_true, decide_eq_true_eq, List.all_eq_true] at h
    obtain ⟨⟨⟨-, hms⟩, hmax⟩, hitems⟩ := h
    have hlen : items.length ≤ 24 := of_decide_eq_true hmax
    have hcount : (byteOf items.length).toNat = items.length := toNat_byteOf _ (by omega)
    have hbytes := length_flatMap_itemBytes items
    simp [FrameBody.typeCode, FrameBody.bytes, enc16, parseBody, hcount, hbytes, hlen, Config.maxItems,
      dec16_enc16 _ hms, dec16_enc16 _ n.isLt, parseItems_bytes items hitems]
  | ask z u d ms | hold z u d ms =>
    simp only [Frame.wellFormed, frameCommand, Instr.wellFormed, fits8, fits16, Bool.and_eq_true, decide_eq_true_eq] at h
    obtain ⟨⟨⟨⟨-, hz⟩, hu⟩, hd⟩, hms⟩ := h
    simp [FrameBody.typeCode, FrameBody.bytes, enc16, parseBody, toNat_byteOf _ hz, toNat_byteOf _ hu, toNat_byteOf _ hd,
      dec16_enc16 _ hms]
  | drop z =>
    simp only [Frame.wellFormed, frameCommand, Instr.wellFormed, fits8, fits16, Bool.and_eq_true, decide_eq_true_eq] at h
    simp [FrameBody.typeCode, FrameBody.bytes, parseBody, toNat_byteOf _ h.2]
  | yieldRequest z u =>
    simp only [Frame.wellFormed, frameCommand, Instr.wellFormed, fits8, fits16, Bool.and_eq_true, decide_eq_true_eq] at h
    simp [FrameBody.typeCode, FrameBody.bytes, parseBody, toNat_byteOf _ h.1.2, toNat_byteOf _ h.2]

theorem Frame.header_fits {f : Frame} (h : f.wellFormed = true) :
    f.sender < 256 ∧ f.revision < 65536 ∧ f.body.bodyLength < 256 := by
  obtain ⟨sender, revision, body⟩ := f
  cases body with
  | bulletin n r ms items =>
    simp only [Frame.wellFormed, frameCommand, Instr.wellFormed, fits8, fits16, Config.maxItems, Bool.and_eq_true,
      decide_eq_true_eq] at h
    obtain ⟨⟨⟨⟨hsender, hrevision⟩, -⟩, hmax⟩, -⟩ := h
    have hlen : items.length ≤ 24 := of_decide_eq_true hmax
    refine ⟨hsender, hrevision, ?_⟩
    show 6 + 4 * items.length < 256
    omega
  | ask | hold =>
    simp only [Frame.wellFormed, frameCommand, Instr.wellFormed, fits8, fits16, Bool.and_eq_true, decide_eq_true_eq] at h
    obtain ⟨⟨⟨⟨⟨hsender, hrevision⟩, -⟩, -⟩, -⟩, -⟩ := h
    exact ⟨hsender, hrevision, Nat.le_of_ble_eq_true rfl⟩
  | drop =>
    simp only [Frame.wellFormed, frameCommand, Instr.wellFormed, fits8, fits16, Bool.and_eq_true, decide_eq_true_eq] at h
    exact ⟨h.1.1, h.1.2, Nat.le_of_ble_eq_true rfl⟩
  | yieldRequest =>
    simp only [Frame.wellFormed, frameCommand, Instr.wellFormed, fits8, fits16, Bool.and_eq_true, decide_eq_true_eq] at h
    exact ⟨h.1.1.1, h.1.1.2, Nat.le_of_ble_eq_true rfl⟩

theorem FrameBody.typeCode_lt (b : FrameBody) : b.typeCode < 256 := by
  cases b with
  | bulletin | ask | hold | drop | yieldRequest => exact Nat.le_of_ble_eq_true rfl

/-- A frame whose fields fit is read back from its bytes. -/
theorem parseFrame_frameBytes {f : Frame} (h : f.wellFormed = true) : parseFrame (frameBytes f) = some f := by
  obtain ⟨hsender, hrevision, hlen⟩ := Frame.header_fits h
  have hgood : crcGood (frameBytes f) = true := crcGood_sealCrc _
  have hbody := parseBody_bytes h
  have hbytes : ∃ crc : List Byte, crc.length = 2 ∧ frameBytes f = byteOf f.body.typeCode :: byteOf f.sender ::
      byteOf (f.revision / 256) :: byteOf f.revision :: byteOf f.body.bodyLength :: (f.body.bytes ++ crc) :=
    ⟨_, length_enc16 _, rfl⟩
  obtain ⟨crc, hcrc, heq⟩ := hbytes
  rw [heq] at hgood ⊢
  have htake : (f.body.bytes ++ crc).take f.body.bodyLength = f.body.bytes := by
    rw [← f.body.length_bytes, List.take_left]
  simp only [parseFrame, toNat_byteOf _ hlen, toNat_byteOf _ f.body.typeCode_lt, toNat_byteOf _ hsender, htake, hbody, hgood,
    dec16_enc16 _ hrevision, List.length_append, hcrc, f.body.length_bytes, if_true]

/-- A frame heard is received as the frame it is (log 22). -/
theorem exec_frameCommand (f : Frame) (s : State) : exec (frameCommand f) s = .next (s.receive f) := by
  obtain ⟨sender, revision, body⟩ := f
  cases body with
  | bulletin | ask | hold | drop | yieldRequest => rfl

/-- Settles O56. -/
theorem framesReadBackAsSent : Obligations.FramesReadBackAsSent := by
  refine ⟨fun f => parseFrame_frameBytes, fun f s h => ?_, crcGood_iff⟩
  rw [exec_frameCommand]
  show Host.Outcome.next _ = _
  rw [parseFrame_frameBytes h]

/-! ### Damaged images (R11) -/

/-- The validity checks never find the CRC bad. -/
theorem checkImage_ne_configCrc (image : List Byte) : checkImage image ≠ .failed .configCrc := by
  have hsections : ∀ r x, checkSections r x ≠ .failed .configCrc := by
    intro r x
    unfold checkSections
    iterate 9 (split; · exact nofun)
    exact nofun
  unfold checkImage
  dsimp only
  iterate 3 (split; · exact nofun)
  split
  · exact nofun
  · exact hsections _ _

/-- Settles O7: the length, then the CRC of the bytes stored; no later check gives this cause. -/
theorem badImagesFailTheCrc : Obligations.BadImagesFailTheCrc := by
  refine ⟨by decide +kernel, fun store => ?_⟩
  have hlength : statedLength store = 256 * (storeRead store 0).toNat + (storeRead store 1).toNat := by
    rw [statedLength, dec16, Nat.mul_comm]
  dsimp only
  rw [← hlength, loadStore]
  generalize statedLength store = n
  dsimp only
  by_cases hn : n < 30 ∨ Config.storeBytes < n
  · rw [if_pos hn]
    refine iff_of_true rfl ?_
    rcases hn with hn | hn
    · exact .inl hn
    · exact .inr (.inl hn)
  · rw [if_neg hn]
    rw [not_or, Nat.not_lt, Nat.not_lt] at hn
    obtain ⟨h30, hmax⟩ := hn
    have hbytes : storeBytes store 0 n = (List.range n).map (storeRead store) := by simp [storeBytes_eq]
    have hget : ∀ i < n, ((List.range n).map (storeRead store)).getD i 0 = storeRead store i := fun i hi => by simp [hi]
    have htake : ((List.range n).map (storeRead store)).take (n - 2) = (List.range (n - 2)).map (storeRead store) := by
      rw [← List.map_take, List.take_range, Nat.min_eq_left (Nat.sub_le n 2)]
    have hgood := crcGood_iff (storeBytes store 0 n)
    rw [hbytes, List.length_map, List.length_range, hget _ (by omega), hget _ (by omega), htake] at hgood
    have hshort : ¬ n < 30 := Nat.not_lt.2 h30
    have hlong : ¬ 16384 < n := Nat.not_lt.2 hmax
    rw [hbytes]
    split
    next hcrc =>
      refine iff_of_false (checkImage_ne_configCrc _) ?_
      rintro (hx | hx | hx)
      · exact hshort hx
      · exact hlong hx
      · exact hx (hgood.1 hcrc).2.symm
    next hcrc =>
      refine iff_of_true rfl (.inr (.inr fun heq => hcrc (hgood.2 ⟨by omega, heq.symm⟩)))

end Sys2Proof.Machine
end

section
/-! PROOFS. What loading makes of a stored image, and the rules that an installed model obeys (R1 to R9, R12, R182). -/
namespace Sys2Proof.Machine

/-! ### Which images load -/

/-- An image that reaches a model reads whole. -/
theorem readSections_of_checkImage {image : List Byte} {m : YardModel} (h : checkImage image = .loaded m) :
    ∃ x, readSections (readHeader image) = some x := by
  cases hx : readSections (readHeader image) with
  | some x => exact ⟨x, rfl⟩
  | none =>
    unfold checkImage at h
    dsimp only at h
    rw [hx] at h
    iterate 3 (split at h; · exact nomatch h)
    exact nomatch h

/-- The bytes that loading goes on with once the length and the CRC are good (R11). -/
structure ImageBytes (store : List Host.Cell) (image : List Byte) : Prop where
  bytes : image = (List.range image.length).map (storeRead store)
  short : 30 ≤ image.length
  long : image.length ≤ 16384
  stated : dec16 (image.getD 0 0) (image.getD 1 0) = image.length
  crc : crcGood image = true

/-- Loading either finds the image damaged or goes on to the validity checks (R11). -/
theorem loadStore_cases (store : List Host.Cell) :
    loadStore store = .failed .configCrc ∨
      ∃ image, loadStore store = checkImage image ∧ ImageBytes store image := by
  unfold loadStore
  dsimp only
  split
  · exact .inl rfl
  next hn =>
    rw [not_or, Nat.not_lt, Nat.not_lt] at hn
    obtain ⟨h30, hmax⟩ := hn
    split
    next hcrc =>
      have hbytes : storeBytes store 0 (statedLength store) = (List.range (statedLength store)).map (storeRead store) := by
        simp [storeBytes_eq]
      have hlen : (storeBytes store 0 (statedLength store)).length = statedLength store := by simp [hbytes]
      have hget : ∀ i < statedLength store, (storeBytes store 0 (statedLength store)).getD i 0 = storeRead store i :=
        fun i hi => by simp [hbytes, hi]
      refine .inr ⟨_, rfl, by rw [hlen, hbytes], by rw [hlen]; exact h30, by rw [hlen]; exact hmax, ?_, hcrc⟩
      rw [hlen, hget 0 (by omega), hget 1 (by omega)]
      rfl
    · exact .inl rfl

/-- Image bytes whose sections read are those of a stored image. -/
theorem ImageBytes.stored {store : List Host.Cell} {image : List Byte} (h : ImageBytes store image) {x : RawSections}
    (hx : readSections (readHeader image) = some x) : ∃ d : StoredImage, StoredIn d store ∧ d.bytes = image := by
  obtain ⟨hbytes, hshort, hlong, hstated, hcrc⟩ := h
  obtain ⟨d, hfits, heq⟩ := stored_of_readSections image x hshort hlong hstated hcrc hx
  exact ⟨d, ⟨hfits, by rw [heq]; exact hlong, by rw [heq]; exact hbytes.symm⟩, heq⟩

open Classical in
/-- The checks from number `k` on, so many of them: the first that fails, or the model. -/
noncomputable def checksFrom (P : Nat → Prop) (m : YardModel) : Nat → Nat → LoadResult
  | 0, _ => .loaded m
  | n + 1, k => if ¬ P k then .failed (.configInvalid k) else checksFrom P m n (k + 1)

theorem checksFrom_loaded {P : Nat → Prop} {m : YardModel} (n : Nat) : ∀ k,
    (∀ j, k ≤ j → j < k + n → P j) → checksFrom P m n k = .loaded m := by
  induction n with
  | zero => exact fun _ _ => rfl
  | succ n ih =>
    intro k h
    rw [checksFrom, if_neg (not_not.2 (h k (Nat.le_refl k) (by omega)))]
    exact ih (k + 1) fun j hj hlt => h j (by omega) (by omega)

theorem checksFrom_failed {P : Nat → Prop} {m : YardModel} (n : Nat) : ∀ {k i : Nat}, k ≤ i → i < k + n →
    (∀ j, k ≤ j → j < i → P j) → ¬ P i → checksFrom P m n k = .failed (.configInvalid i) := by
  induction n with
  | zero => exact fun h1 h2 => absurd h2 (by omega)
  | succ n ih =>
    intro k i h1 h2 hbefore hfail
    rw [checksFrom]
    rcases Nat.eq_or_lt_of_le h1 with rfl | hlt
    · rw [if_pos hfail]
    · rw [if_neg (not_not.2 (hbefore k (Nat.le_refl k) hlt))]
      exact ih hlt (by omega) (fun j hj hji => hbefore j (by omega) hji) hfail

/-- The eleven checks of an image that fits. -/
theorem checkImage_eq_checksFrom {d : StoredImage} (h : d.Fits) :
    checkImage d.bytes = checksFrom d.Passes (modelOf d.raw d.records) 11 1 := by
  rw [checkImage_bytes d h]
  rfl

theorem checkImage_passed {d : StoredImage} (h : d.Fits) (hall : ∀ k, 1 ≤ k → k ≤ 11 → d.Passes k) :
    checkImage d.bytes = .loaded (modelOf d.raw d.records) := by
  rw [checkImage_eq_checksFrom h]
  exact checksFrom_loaded 11 1 fun j h1 h2 => hall j h1 (by omega)

theorem checkImage_failed {d : StoredImage} (h : d.Fits) {k : Nat} (h1 : 1 ≤ k) (h11 : k ≤ 11)
    (hbefore : ∀ j, 1 ≤ j → j < k → d.Passes j) (hfail : ¬ d.Passes k) :
    checkImage d.bytes = .failed (.configInvalid k) := by
  rw [checkImage_eq_checksFrom h]
  exact checksFrom_failed 11 h1 (by omega) hbefore hfail

/-- An image that does not pass every check has a first that fails. -/
theorem first_failing {P : Nat → Prop} {n : Nat} (h : ¬ ∀ k, 1 ≤ k → k ≤ n → P k) :
    ∃ k, 1 ≤ k ∧ k ≤ n ∧ (∀ j, 1 ≤ j → j < k → P j) ∧ ¬ P k := by
  classical
  have hex : ∃ k, 1 ≤ k ∧ k ≤ n ∧ ¬ P k := by
    by_contra hnone
    exact h fun k h1 hn => not_not.1 fun hk => hnone ⟨k, h1, hn, hk⟩
  obtain ⟨h1, hn, hk⟩ := Nat.find_spec hex
  refine ⟨Nat.find hex, h1, hn, fun j hj hlt => not_not.1 fun hnot => ?_, hk⟩
  exact Nat.find_min hex hlt ⟨hj, by omega, hnot⟩

theorem checkImage_loaded {d : StoredImage} (h : d.Fits) {m : YardModel} (hload : checkImage d.bytes = .loaded m) :
    (∀ k, 1 ≤ k → k ≤ 11 → d.Passes k) ∧ m = modelOf d.raw d.records := by
  by_cases hall : ∀ k, 1 ≤ k → k ≤ 11 → d.Passes k
  · rw [checkImage_passed h hall] at hload
    exact ⟨hall, (LoadResult.loaded.inj hload).symm⟩
  · obtain ⟨k, h1, h11, hbefore, hfail⟩ := first_failing hall
    rw [checkImage_failed h h1 h11 hbefore hfail] at hload
    exact nomatch hload

/-- A model that loading installs is that of a stored image which passes every check. -/
theorem stored_of_loaded {store : List Host.Cell} {m : YardModel} (h : loadStore store = .loaded m) :
    ∃ d : StoredImage, (∀ k, 1 ≤ k → k ≤ 11 → d.Passes k) ∧ m = modelOf d.raw d.records := by
  rcases loadStore_cases store with hbad | ⟨image, heq, hbytes⟩
  · rw [hbad] at h
    exact nomatch h
  · rw [heq] at h
    obtain ⟨x, hx⟩ := readSections_of_checkImage h
    obtain ⟨d, ⟨hfits, -⟩, hd⟩ := hbytes.stored hx
    rw [← hd] at h
    exact ⟨d, checkImage_loaded hfits h⟩

end Sys2Proof.Machine
end

section
/-! PROOFS. The rules that a model obeys which loading installs (R1 to R9), and how loading ends (R11, R12, R182). -/
namespace Sys2Proof.Machine

/-! ### Points and kinds (R2 to R4) -/

/-- The kind of a point is what its code says (section 12.5). -/
structure KindSpelled (p : RawPoint) : Prop where
  isSwitch : (pointOf p).kind.isSwitch = true ↔ SwitchCode p.kind
  breaker : (pointOf p).kind = .breaker ↔ p.kind = 1
  disconnector : (pointOf p).kind = .disconnector ↔ p.kind = 2
  earthing : (pointOf p).kind = .earthing ↔ p.kind = 3
  voltage : (pointOf p).kind = .voltage ↔ p.kind = 4
  binary : (pointOf p).kind = .binary ↔ p.kind = 5

theorem kindSpelled {p : RawPoint} (h1 : 1 ≤ p.kind) (h5 : p.kind ≤ 5) : KindSpelled p := by
  obtain ⟨id, kind, owner, a, b⟩ := p
  obtain rfl | rfl | rfl | rfl | rfl : kind = 1 ∨ kind = 2 ∨ kind = 3 ∨ kind = 4 ∨ kind = 5 := by
    simp only at h1 h5
    omega
  all_goals constructor <;> simp [pointOf, kindOfCode, PointKind.isSwitch, SwitchCode]

section
variable {d : StoredImage} (h : ∀ k, 1 ≤ k → k ≤ 11 → d.Passes k)
include h

theorem StoredImage.kinds {p : RawPoint} (hp : p ∈ d.points) : KindSpelled p := by
  obtain ⟨hpoints, -⟩ := h 4 (by omega) (by omega)
  obtain ⟨h1, h5, -⟩ := hpoints p hp
  exact kindSpelled h1 h5

omit h in
/-- The points of the model are those of the image. -/
theorem mem_modelOf_points {q : PointDef} : q ∈ (modelOf d.raw d.records).points ↔ ∃ p ∈ d.points, pointOf p = q := by
  simp [modelOf]

omit h in
/-- Points counted in the model are those counted in the image. -/
theorem count_modelOf_points {f : PointDef → Bool} {g : RawPoint → Bool} (hfg : ∀ p ∈ d.points, f (pointOf p) = g p) :
    ((modelOf d.raw d.records).points.filter f).length = (d.points.filter g).length := by
  have hperm := (sortBy_perm PointDef.id (d.points.map pointOf)).filter f
  rw [show (modelOf d.raw d.records).points = sortBy PointDef.id (d.points.map pointOf) from rfl, hperm.length_eq,
    List.filter_map, List.length_map]
  exact congrArg List.length (List.filter_congr hfg)

/-- The counts of section 1.1 (R2). -/
theorem StoredImage.counts :
    let m := modelOf d.raw d.records
    m.points.length ≤ 256 ∧ (m.points.filter fun p => p.owner = m.unit).length ≤ 24 ∧
    (m.points.filter fun p => p.kind.isSwitch).length ≤ 192 ∧ (m.points.filter fun p => p.kind = .voltage).length ≤ 32 ∧
    (m.points.filter fun p => p.kind.isSwitch = true ∧ p.owner = m.unit).length ≤ 12 ∧
    (m.points.filter fun p => p.kind = .voltage ∧ p.owner = m.unit).length ≤ 4 ∧
    (m.points.filter fun p => p.kind = .binary ∧ p.owner = m.unit).length ≤ 8 := by
  obtain ⟨-, -, hpoints, -, hmine, hswitches, hmySwitches, hvoltages, hmyVoltages, hmyBinaries, -⟩ := h 3 (by omega) (by omega)
  rw [List.filter_filter] at hmySwitches hmyVoltages hmyBinaries
  have hkinds := fun p hp => StoredImage.kinds h (p := p) hp
  refine ⟨?_, ?_, ?_, ?_, ?_, ?_, ?_⟩
  · simpa [modelOf, (sortBy_perm _ _).length_eq] using hpoints
  · rw [count_modelOf_points (g := fun p => p.owner = d.unit) fun _ _ => rfl]
    exact hmine
  · rw [count_modelOf_points (g := fun p => 1 ≤ p.kind ∧ p.kind ≤ 3) fun p hp => ?_]
    · exact hswitches
    · exact Bool.eq_iff_iff.2 (by simpa [SwitchCode] using (hkinds p hp).isSwitch)
  · rw [count_modelOf_points (g := fun p => p.kind = 4) fun p hp => decide_eq_decide.2 (hkinds p hp).voltage]
    exact hvoltages
  · rw [count_modelOf_points (g := fun p => decide (1 ≤ p.kind ∧ p.kind ≤ 3) && decide (p.owner = d.unit)) fun p hp => ?_]
    · exact hmySwitches
    · rw [← Bool.decide_and]
      exact decide_eq_decide.2 (and_congr_left fun _ => (hkinds p hp).isSwitch)
  · rw [count_modelOf_points (g := fun p => decide (p.kind = 4) && decide (p.owner = d.unit)) fun p hp => ?_]
    · exact hmyVoltages
    · rw [← Bool.decide_and]
      exact decide_eq_decide.2 (and_congr_left fun _ => (hkinds p hp).voltage)
  · rw [count_modelOf_points (g := fun p => decide (p.kind = 5) && decide (p.owner = d.unit)) fun p hp => ?_]
    · exact hmyBinaries
    · rw [← Bool.decide_and]
      exact decide_eq_decide.2 (and_congr_left fun _ => (hkinds p hp).binary)

/-- Ids and owners (R1, R2), and the nodes of each kind (R3, R4). -/
theorem StoredImage.pointRules :
    let m := modelOf d.raw d.records
    (m.points.map (·.id)).Pairwise (· < ·) ∧
    (∀ p ∈ m.points, 1 ≤ p.id ∧ p.id ≤ 65535 ∧ 1 ≤ p.owner ∧ p.owner ≤ 48) ∧
    (∀ p ∈ m.points, (p.kind = .breaker ∨ p.kind = .disconnector) →
      1 ≤ p.nodeA ∧ p.nodeA ≤ m.highNode ∧ 1 ≤ p.nodeB ∧ p.nodeB ≤ m.highNode ∧ p.nodeA ≠ p.nodeB) ∧
    (∀ p ∈ m.points, p.kind = .earthing → 1 ≤ p.nodeA ∧ p.nodeA ≤ m.highNode ∧ p.nodeB = 0) ∧
    (∀ p ∈ m.points, p.kind = .voltage → 1 ≤ p.nodeA ∧ p.nodeA ≤ m.highNode) ∧
    ((m.points.filter fun p => p.kind = .voltage).map (·.nodeA)).Nodup := by
  obtain ⟨hpoints, -⟩ := h 4 (by omega) (by omega)
  obtain ⟨hids, hnodup⟩ := h 5 (by omega) (by omega)
  obtain ⟨hnodes, hsources⟩ := h 7 (by omega) (by omega)
  refine ⟨sortBy_rising _ _ (by simpa [pointOf, Function.comp_def] using hnodup), fun q hq => ?_, fun q hq hk => ?_,
    fun q hq hk => ?_, fun q hq hk => ?_, ?_⟩
  · obtain ⟨p, hp, rfl⟩ := mem_modelOf_points.1 hq
    obtain ⟨-, -, ho⟩ := hpoints p hp
    exact ⟨(hids p hp).1, (hids p hp).2, ho⟩
  · obtain ⟨p, hp, rfl⟩ := mem_modelOf_points.1 hq
    have hkind := StoredImage.kinds h hp
    exact (hnodes p hp).1 (hk.imp hkind.breaker.1 hkind.disconnector.1)
  · obtain ⟨p, hp, rfl⟩ := mem_modelOf_points.1 hq
    exact (hnodes p hp).2.1 ((StoredImage.kinds h hp).earthing.1 hk)
  · obtain ⟨p, hp, rfl⟩ := mem_modelOf_points.1 hq
    exact (hnodes p hp).2.2 ((StoredImage.kinds h hp).voltage.1 hk)
  · have hperm := ((sortBy_perm PointDef.id (d.points.map pointOf)).filter fun p => decide (p.kind = .voltage)).map PointDef.nodeA
    refine hperm.nodup_iff.2 ?_
    have hsame : (d.points.filter fun p => decide (p.kind = 4)) = d.points.filter fun p => decide ((pointOf p).kind = .voltage) :=
      List.filter_congr fun p hp => decide_eq_decide.2 (StoredImage.kinds h hp).voltage.symm
    rw [hsame] at hsources
    simpa [List.filter_map, Function.comp_def, pointOf] using hsources

/-- The zones (R5). -/
theorem StoredImage.zoneRules :
    let m := modelOf d.raw d.records
    m.zones.length ≤ 24 ∧ (m.zones.map (·.number)).Pairwise (· < ·) ∧
    ∀ z ∈ m.zones, 1 ≤ z.number ∧ z.number ≤ 24 ∧ 1 ≤ z.nodes.length ∧ z.nodes.length ≤ 16 ∧ z.nodes.Nodup ∧
      ∀ n ∈ z.nodes, 1 ≤ n ∧ n ≤ m.highNode := by
  obtain ⟨-, -, -, -, -, -, -, -, -, -, hlen, -⟩ := h 3 (by omega) (by omega)
  obtain ⟨hzones, hnodup⟩ := h 8 (by omega) (by omega)
  refine ⟨?_, sortBy_rising _ _ hnodup, fun z hz => hzones z (by simpa [modelOf] using hz)⟩
  simpa [modelOf, (sortBy_perm _ _).length_eq] using hlen

end

end Sys2Proof.Machine
end


section
/-! PROOFS. Start-up control's commands (section 1.5): supply, the end of loading, the quiet time, halts, restarts and the
frames of an orderly stop. -/
namespace Sys2Proof.Machine

/-! ### Starts and the supply (R13, R15) -/

theorem map_unit_peersStart : Image.start.peers.map (·.unit) = List.range' 1 48 := by decide

theorem peersStart_fresh : ∀ p ∈ Image.start.peers,
    p.status = .never ∧ p.lastState = 0 ∧ p.lastRepeat = 0 ∧ p.mismatch = false := by decide

/-- A start gives every block its values after a start. -/
theorem State.start_values {s : State} (hs : s.supplied = true) (cause : StartCause) :
    StartValues s (s.start cause) cause s.now :=
  ⟨hs, rfl, rfl, rfl, rfl, rfl, rfl, rfl, rfl, rfl, rfl, rfl, rfl, rfl, rfl, map_unit_peersStart, peersStart_fresh,
    rfl, rfl, rfl, rfl, rfl, rfl, rfl, rfl, rfl, rfl, rfl, rfl, rfl, rfl, rfl, rfl, rfl, rfl, rfl, rfl⟩

/-- A start's values look at the lines, the medium and the waiting commands alone of the state before. -/
theorem StartValues.congr {s s' t : State} {cause : StartCause} {time : Time} (h : StartValues s t cause time)
    (hlines : s'.bay.lines = s.bay.lines) (hbusy : s'.link.mediumBusy = s.link.mediumBusy)
    (hpending : s'.pending = s.pending) : StartValues s' t cause time := by
  unfold StartValues at *
  rwa [hlines, hbusy, hpending]

/-- The release of the request in hand leaves a start's values as they are. -/
theorem StartValues.release {s t : State} {cause : StartCause} {time : Time} (h : StartValues s t cause time) :
    StartValues s t.release cause time := h

/-- The clock of a power-on start reads 0 (R119). -/
theorem State.now_of_micros_zero {s : State} (h : s.micros = 0) : s.now = 0 := by
  rw [State.now, h]; rfl

theorem State.powerOnStart_values (s : State) : StartValues s s.powerOnStart .powerOn 0 := by
  have hstart := State.start_values
    (s := ((s.setSupplied true).setMicros 0).setPort { s.port with inHand := none, waiting := none }) rfl .powerOn
  rw [State.now_of_micros_zero rfl] at hstart
  exact hstart.congr rfl rfl rfl

/-- The loss of supply, field by field. -/
theorem State.loseSupply_eq (s : State) : s.loseSupply = { s with
    supplied := false
    ctl := { s.ctl with store := s.loseSupply.ctl.store, blockWrite := none }
    bay := { s.bay with drive := none, report := none }
    link := { s.link with inHand := none, stage := .idle }
    port := { s.port with inHand := none, waiting := none }
    freeCount := s.loseSupply.freeCount } := by
  have htorn := s.tearBlock_cases.2.1
  have hfield (f : State → State) : f s.tearBlock = f { s with
      ctl := { s.ctl with store := s.tearBlock.ctl.store, blockWrite := none }, freeCount := s.tearBlock.freeCount } :=
    congrArg f htorn
  exact hfield fun u => { u with
    supplied := false
    bay := { u.bay with drive := none, report := none }
    link := { u.link with inHand := none, stage := .idle }
    port := { u.port with inHand := none, waiting := none } }

theorem State.loseSupply_oldOrNew {s : State} (h : s.storeInv) : OldOrNew s s.loseSupply :=
  .of_torn h (congrArg StartControl.store s.loseSupply_ctl)

/-- A start keeps the store, so what the loss of supply left there stands (R10). -/
theorem OldOrNew.of_store {s t u : State} (h : OldOrNew s t) (hu : u.ctl.store = t.ctl.store) : OldOrNew s u := by
  unfold OldOrNew BlockIn at *
  rwa [hu]

theorem OldOrNew.refl {s t : State} (h : t.ctl.store = s.ctl.store) : OldOrNew s t :=
  .inl fun a => congrArg (storeRead · a) h

/-- Settles O5: the start that POWER_ON makes, after a loss of supply where there was one, and the loss of supply. -/
theorem supplyComesAndGoes : Obligations.SupplyComesAndGoes := by
  refine fun s hinv => ⟨?_, fun hs => ⟨s.loseSupply, ?_, s.loseSupply_oldOrNew hinv, rfl, ?_, s.loseSupply_eq⟩⟩
  · cases hs : s.supplied with
    | false =>
      refine ⟨s.powerOnStart, ?_, s.powerOnStart_values, rfl, rfl, rfl, rfl, .refl s.powerOnStart_store⟩
      show execPowerOn s = _
      rw [execPowerOn, hs]; rfl
    | true =>
      have hlost := s.loseSupply_eq
      have hbay : s.loseSupply.bay.lines = s.bay.lines := congrArg (·.bay.lines) hlost
      have hlink : s.loseSupply.link.mediumBusy = s.link.mediumBusy := congrArg (·.link.mediumBusy) hlost
      have hpending : s.loseSupply.pending = s.pending := congrArg (·.pending) hlost
      have hreplies : s.loseSupply.port.replies = s.port.replies := congrArg (·.port.replies) hlost
      refine ⟨s.loseSupply.powerOnStart, ?_, s.loseSupply.powerOnStart_values.congr hbay.symm hlink.symm hpending.symm, rfl,
        rfl, rfl, hreplies, (s.loseSupply_oldOrNew hinv).of_store s.loseSupply.powerOnStart_store⟩
      show execPowerOn s = _
      rw [execPowerOn, hs]; rfl
  · show execSupplyFailure s = _
    rw [execSupplyFailure, hs, if_pos rfl]
  · exact s.tearBlock_cases.2.2

/-! ### Loading ends (R13, R14) -/

/-- Settles O6: the installed model's tables, or the halt with its cause. -/
theorem loadingEndsInQuietOrHalted : Obligations.LoadingEndsInQuietOrHalted := by
  intro s hs hmode
  have hexec : exec .loadingEnd s = .next s.endLoading := by
    show execLoadingEnd s = _
    rw [execLoadingEnd, if_pos ⟨hs, hmode⟩]
  refine ⟨fun c hfail => ?_, fun m hload => ⟨s.enterQuiet m, ?_, rfl, rfl, rfl⟩⟩
  · rw [hexec, State.endLoading, hfail]; rfl
  · rw [hexec, State.endLoading, hload]

/-! ### The transmitter takes a frame in hand (R93) -/

/-- The transmitter with a frame in hand for its first attempt, and these frames waiting. -/
def State.deferringOn (s : State) (f : Frame) (rest : List Frame) : State :=
  { s with link := { s.link with
    txList := rest, inHand := some ⟨f, 0, true, s.micros⟩, stage := .deferring s.spellNow } }

theorem State.takeHead_cons {s : State} {f : Frame} {rest : List Frame} (h : s.link.txList = f :: rest) :
    s.takeHead = s.deferringOn f rest := by
  rw [State.takeHead, h]; rfl

theorem State.takeHead_nil {s : State} (h : s.link.txList = []) : s.takeHead = s := by
  rw [State.takeHead, h]

/-- In RUN an idle transmitter takes the head of its list. -/
theorem State.takeInHand_idle {s : State} (hm : s.ctl.mode = .run) (hst : s.link.stage = .idle) :
    s.takeInHand = s.takeHead := if_pos ⟨hm, hst⟩

theorem State.takeInHand_busy {s : State} (hst : s.link.stage ≠ .idle) : s.takeInHand = s :=
  if_neg fun h => hst h.2

/-- A frame offered to an idle transmitter with an empty list is taken in hand at once. -/
theorem State.offer_idle {s : State} (hrun : s.running = true) (hact : s.link.mode = .active) (hst : s.link.stage = .idle)
    (hlist : s.link.txList = []) (b : FrameBody) : s.offer b = s.deferringOn (s.frame b) [] := by
  have hmode := (State.running_iff.1 hrun).2.1
  have hinsert : insertFrame s.link.txList (s.frame b) = [s.frame b] := by rw [hlist]; rfl
  rw [State.offer, if_pos ⟨hrun, hact⟩, hinsert,
    State.takeInHand_idle (s := s.setLink { s.link with txList := [s.frame b] }) hmode hst, State.takeHead_cons rfl]
  rfl

theorem State.offer_off {s : State} (h : ¬ (s.running = true ∧ s.link.mode = .active)) (b : FrameBody) : s.offer b = s :=
  if_neg h

/-! ### The quiet time ends (R15) -/

/-- The state number counted, with nothing offered while the link is not ACTIVE (R117). -/
theorem State.countState_off {s : State} (h : ¬ (s.running = true ∧ s.link.mode = .active)) (n : StateNo) :
    s.countState n = { s with pub := { s.pub with stateNo := some n, repeatNo := 0, interval := s.params.base } } :=
  if_neg h

/-- The state number counted and its first bulletin offered (R111, R115). -/
theorem State.countState_on {s : State} (h : s.running = true ∧ s.link.mode = .active) (n : StateNo) :
    s.countState n = { s with pub := ⟨some n, 0, s.params.base, .offered n 0⟩ }.offer
      (.bulletin n 0 (2 * s.params.base + s.params.margin) s.pointList) :=
  if_pos h

/-- Counted with the transmitter idle, a state's first bulletin is awaited and in hand at once. -/
theorem State.countState_idle {s : State} (h : s.running = true ∧ s.link.mode = .active) (hst : s.link.stage = .idle)
    (hlist : s.link.txList = []) (n : StateNo) :
    s.countState n = { s with
      pub := ⟨some n, 0, s.params.base, .offered n 0⟩
      link := { s.link with
        stage := .deferring s.spellNow
        inHand := some ⟨⟨s.unit, s.ctl.model.revision,
          .bulletin n 0 (2 * s.params.base + s.params.margin) s.pointList⟩, 0, true, s.micros⟩ } } := by
  have hoffer := State.offer_idle (s := s.setPub ⟨some n, 0, s.params.base, .offered n 0⟩) h.1 h.2 hst hlist
    (.bulletin n 0 (2 * s.params.base + s.params.margin) s.pointList)
  refine ((State.countState_on h n).trans hoffer).trans ?_
  rw [State.deferringOn, ← hlist]
  rfl

/-- Settles O9: the quiet time ends in RUN, where the count of state 0 offers its bulletin if the link is ACTIVE. -/
theorem quietTimeEndsInRun : Obligations.QuietTimeEndsInRun := by
  intro s hs hmode hctl hlink
  have hexec (h : s.reached s.ctl.quietEnd = true) :
      exec .quietTimeExpiry s = .next ((s.setCtl { s.ctl with mode := .run }).countState 0) := by
    show execQuietTimeExpiry s = _
    rw [execQuietTimeExpiry, if_pos ⟨hs, hmode, h⟩]; rfl
  obtain ⟨hstopRun, -⟩ := hctl
  obtain ⟨hidle, hempty, hinRun, -⟩ := hlink
  have hstop : s.ctl.stopping = none := by
    by_contra hne
    have hrun := hstopRun (Option.isSome_iff_ne_none.2 hne)
    rw [hmode] at hrun; cases hrun
  have hin : s.link.inHand = none := by
    by_contra hne
    have hrun := hinRun (Option.isSome_iff_ne_none.2 hne)
    rw [hmode] at hrun; cases hrun
  have hrunning : (s.setCtl { s.ctl with mode := .run }).running = true := State.running_iff.2 ⟨hs, rfl, hstop⟩
  refine ⟨fun hnot => ?_, fun hreached => ⟨fun hmuted => ?_, fun hactive => ?_⟩⟩
  · show execQuietTimeExpiry s = _
    rw [execQuietTimeExpiry, if_neg (by simp [hnot])]
  · have hoff : ¬ ((s.setCtl { s.ctl with mode := .run }).running = true ∧
        (s.setCtl { s.ctl with mode := .run }).link.mode = .active) := by simp [hmuted]
    rw [hexec hreached, State.countState_off hoff]
    rfl
  · rw [hexec hreached, State.countState_idle ⟨hrunning, hactive⟩ (hidle.1 hin) (hempty hin)]
    rfl

end Sys2Proof.Machine
end


section
/-! PROOFS. Halts, restarts and orderly stops (R16, R17, R106), and the request that waits behind them (R166). -/
namespace Sys2Proof.Machine

/-! ### Requests taken by a free unit -/

/-- A free unit takes a request at once: refused by the mode, or taken. -/
theorem exec_commandOf_free {s : State} (hs : s.free) (tag : Byte) {r : Request} (hsend : Sendable r) :
    exec (commandOf tag r) s = .next ((s.holding tag r).takeRequest ⟨tag, r⟩) := by
  rw [exec_commandOf tag hsend, State.receive_free hs]

theorem exec_commandOf_refused {s : State} (hs : s.free) (tag : Byte) {r : Request} (hsend : Sendable r)
    {status : ReplyStatus} (h : modeRefusal s.ctl.mode (requestRow r) = some status) :
    exec (commandOf tag r) s = .next (s.replied (requestTypeCode r) tag status .none) := by
  have hrefuse : modeRefusal (s.holding tag r).ctl.mode (requestRow r) = some status := h
  rw [exec_commandOf_free hs tag hsend, State.take_refused hrefuse]
  exact congrArg _ (State.answer_holding s ⟨tag, r⟩ status .none)

theorem exec_commandOf_admitted {s : State} (hs : s.free) (tag : Byte) {r : Request} (hsend : Sendable r)
    (h : modeRefusal s.ctl.mode (requestRow r) = none) :
    exec (commandOf tag r) s = .next ((s.holding tag r).takeAdmitted ⟨tag, r⟩) := by
  have hadmit : modeRefusal (s.holding tag r).ctl.mode (requestRow r) = none := h
  rw [exec_commandOf_free hs tag hsend, State.take_admitted hadmit]

/-! ### The refusals of R167's table -/

/-- LOADING and HALTED refuse every row but the first two of R167's table with NOT_RUNNING. -/
theorem modeRefusal_notRunning {m : UnitMode} (hm : m = .loading ∨ m = .halted) {c : RequestClass} (ha : c ≠ .always)
    (hstore : c ≠ .store) (hu : c ≠ .unknown) : modeRefusal m c = some .notRunning := by
  cases c with
  | always => exact absurd rfl ha
  | store => exact absurd rfl hstore
  | unknown => exact absurd rfl hu
  | _ => rcases hm with rfl | rfl <;> rfl

theorem requestRow_eq_always {r : Request} : requestRow r = .always ↔ r = .readStatus ∨ r = .restart := by
  cases r <;> simp [requestRow]

theorem requestRow_eq_store {r : Request} : requestRow r = .store ↔ ∃ offset data, r = .writeConfig offset data := by
  cases r <;> simp [requestRow]

theorem requestRow_eq_unknown {r : Request} : requestRow r = .unknown ↔ ∃ type, r = .unknown type := by
  cases r <;> simp [requestRow]

/-- Settles O14: R167's table, row by row. -/
theorem modesRefuseRequests : Obligations.ModesRefuseRequests := by
  intro s tag r hs hsend
  refine ⟨fun hwrite hm => ?_, fun hstatus hrestart hwrite hunknown hm => ?_, fun hrow hm => ?_, ?_⟩
  · have hstore := requestRow_eq_store.2 hwrite
    exact exec_commandOf_refused hs tag hsend (hstore ▸ modeRefusal_store hm)
  · refine exec_commandOf_refused hs tag hsend (modeRefusal_notRunning hm ?_ ?_ ?_)
    · rw [Ne, requestRow_eq_always]; exact not_or.2 ⟨hstatus, hrestart⟩
    · rw [Ne, requestRow_eq_store]; rintro ⟨offset, data, h⟩; exact hwrite offset data h
    · rw [Ne, requestRow_eq_unknown]; rintro ⟨type, h⟩; exact hunknown type h
  · refine exec_commandOf_refused hs tag hsend ?_
    rw [hm]
    rcases hrow with ⟨_, _, _, rfl⟩ | ⟨_, _, rfl⟩ | rfl <;> rfl
  · rintro handle rfl hm hactive hqueue
    refine exec_cancel_unknown hs (.inl hm) tag ?_
    simp [State.handlesInUse, hactive, hqueue]

/-! ### HALT and RESTART by the mode (R16, R17) -/

/-- An orderly stop begins with its first frame in hand and no coil energised (R17, R106). -/
theorem State.beginStop_begun (s : State) (why : StopReason) : StopBegun s (s.beginStop why) why := by
  obtain ⟨first, rest, hseq⟩ : ∃ first rest, stopSequence s = first :: rest := by
    cases h : stopSequence s with
    | nil => exact absurd h (by simp [stopSequence])
    | cons first rest => exact ⟨first, rest, rfl⟩
  have hhead := State.takeHead_cons (s := { s with
      ctl := { s.ctl with stopping := some why }
      bay := { s.bay with drive := none, report := none }
      link := { s.link with inHand := none, stage := .idle, txList := stopSequence s }
      pub := { s.pub with stage := .stopped } }) hseq
  exact ⟨first, rest, hseq, hhead, congrArg State.coils hhead⟩

/-- A HALT's row of R167's table. -/
theorem exec_halt_admitted {s : State} (hs : s.free) (tag : Byte) (hm : s.ctl.mode = .quiet ∨ s.ctl.mode = .run) :
    exec (.halt tag) s = .next ((s.holding tag .halt).takeHalt ⟨tag, .halt⟩) :=
  exec_commandOf_admitted hs tag (r := .halt) trivial (by rcases hm with hm | hm <;> rw [hm] <;> rfl)

theorem exec_restart_admitted {s : State} (hs : s.free) (tag : Byte) :
    exec (.restart tag) s = .next ((s.holding tag .restart).takeRestart ⟨tag, .restart⟩) :=
  exec_commandOf_admitted hs tag (r := .restart) trivial rfl

/-- Settles O10: HALT refused, answered BUSY, at once in QUIET and by an orderly stop in RUN; RESTART by an orderly stop in
RUN and at once elsewhere. -/
theorem haltAndRestartByMode : Obligations.HaltAndRestartByMode := by
  intro s tag hs
  refine ⟨fun hm => ?_, fun hm hbusy => ?_, fun hm hactive hqueue => ?_, fun hm hactive hqueue => ?_, fun hm => ?_,
    fun hm => ?_⟩
  · refine exec_commandOf_refused hs tag (r := .halt) trivial ?_
    exact modeRefusal_notRunning hm (nomatch ·) (nomatch ·) (nomatch ·)
  · rw [exec_halt_admitted hs tag hm, State.takeHalt, if_pos (by exact hbusy.symm)]
    rfl
  · have hnone : ¬ ((s.holding tag .halt).seq.queue ≠ [] ∨ (s.holding tag .halt).seq.active.isSome = true) := by
      simp [State.holding, hactive, hqueue]
    have hnotRun : ¬ (s.holding tag .halt).ctl.mode = .run := by
      show ¬ s.ctl.mode = .run
      rw [hm]; exact (nomatch ·)
    rw [exec_halt_admitted hs tag (.inl hm), State.takeHalt, if_neg hnone, if_neg hnotRun]
    rfl
  · have hnone : ¬ ((s.holding tag .halt).seq.queue ≠ [] ∨ (s.holding tag .halt).seq.active.isSome = true) := by
      simp [State.holding, hactive, hqueue]
    refine ⟨_, exec_halt_admitted hs tag (.inr hm), ?_⟩
    rw [State.takeHalt, if_neg hnone, if_pos (by exact hm)]
    exact State.beginStop_begun _ _
  · refine ⟨_, exec_restart_admitted hs tag, ?_⟩
    rw [State.takeRestart, if_pos (by exact hm)]
    exact State.beginStop_begun _ _
  · refine ⟨_, exec_restart_admitted hs tag, ?_⟩
    rw [State.takeRestart, if_neg (by exact hm)]
    exact ⟨(State.start_values hs.1 .restart).congr rfl rfl rfl, rfl, rfl, rfl, rfl, rfl⟩

/-! ### The frames of an orderly stop (R106) -/

/-- The next frame of the stop is taken in hand; after the last the stop ends. -/
theorem State.nextStopFrame_goesOn {s : State} (hs : s.supplied = true) (hw : s.port.waiting = none) :
    StopGoesOn s s.nextStopFrame := by
  let idle := s.setLink { s.link with inHand := none, stage := .idle }
  refine ⟨fun f rest hlist => ?_, fun hlist hstop => ?_, fun hlist hstop tg hin => ?_⟩
  · have hne : ¬ idle.link.txList = [] := by
      show ¬ s.link.txList = []
      rw [hlist]; exact List.cons_ne_nil f rest
    rw [State.nextStopFrame, if_neg hne, State.takeHead_cons (s := idle) hlist]
    rfl
  · have hend : s.nextStopFrame = (idle.start .restart).release := by
      have hwait : (idle.start .restart).release.port.waiting = none := hw
      have hstop' : idle.ctl.stopping = some .restart := hstop
      rw [State.nextStopFrame, if_pos (by exact hlist), State.finishStop, hstop']
      exact State.pump_of_waiting_none hwait
    rw [hend]
    exact ⟨(State.start_values (s := idle) hs .restart).congr rfl rfl rfl, rfl, rfl, rfl, rfl, rfl⟩
  · have hend : s.nextStopFrame = idle.enterHalt.answer tg .ok .none := by
      have hin' : idle.enterHalt.port.inHand = some tg := hin
      have hwait : (idle.enterHalt.answer tg .ok .none).port.waiting = none := hw
      have hstop' : idle.ctl.stopping = some .halt := hstop
      have hans : idle.haltAnswered = idle.enterHalt.answer tg .ok .none := by
        simp only [State.haltAnswered, hin']
      rw [State.nextStopFrame, if_pos (by exact hlist), State.finishStop, hstop']
      show idle.haltAnswered.pump = _
      rw [hans, State.pump_of_waiting_none hwait]
    rw [hend]
    rfl

theorem State.inStop_iff {s : State} :
    s.inStop = true ↔ s.supplied = true ∧ s.ctl.mode = .run ∧ s.ctl.stopping.isSome = true := by
  simp [State.inStop, and_assoc]

/-- The outcomes that an attempt can have reached, by its stage (R96). -/
theorem State.outcomeReached_of {s : State} {outcome : Attempt} {last : Nat}
    (h : (outcome = .collided ∧ s.link.stage = .sending last) ∨ (outcome ≠ .lost ∧ s.link.stage = .echoWait last) ∨
      (outcome = .lost ∧ s.link.stage = .echoWait last ∧ last + 200 ≤ s.micros)) : s.outcomeReached outcome = true := by
  rcases h with ⟨rfl, hstage⟩ | ⟨hlost, hstage⟩ | ⟨rfl, hstage, htime⟩
  · simp [State.outcomeReached, hstage, TxStage.attempting]
  · cases outcome with
    | lost => exact absurd rfl hlost
    | sent => simp [State.outcomeReached, hstage, TxStage.awaiting]
    | collided => simp [State.outcomeReached, hstage, TxStage.attempting]
  · rw [State.outcomeReached, State.echoTimedOut, hstage]
    exact decide_eq_true htime

/-- Settles O11: an outcome reached, or 5 ms without the spell, goes on to the next frame of the stop. -/
theorem stopFramesGoOneByOne : Obligations.StopFramesGoOneByOne := by
  intro s hs hm hstop hw
  have hin : s.inStop = true := State.inStop_iff.2 ⟨hs, hm, hstop⟩
  refine ⟨fun outcome last h => ⟨s.nextStopFrame, ?_, State.nextStopFrame_goesOn hs hw⟩,
    fun h since hhand hstage htime => ⟨s.nextStopFrame, ?_, State.nextStopFrame_goesOn hs hw⟩⟩
  · show execStopFrameOutcome outcome s = _
    rw [execStopFrameOutcome, if_pos ⟨hin, State.outcomeReached_of h⟩]
  · have hdue : s.skipDue = true := by
      rw [State.skipDue, hstage, hhand]
      exact decide_eq_true htime
    show execStopFrameSkip s = _
    rw [execStopFrameSkip, if_pos ⟨hin, hdue⟩]

/-! ### The waiting request (R166) -/

/-- The state with this request waiting, or none. -/
def State.waitingFor (s : State) (w : Option Tagged) : State := s.setPort { s.port with waiting := w }

/-- The waiting request, once taken, is the request that a unit without it takes. -/
theorem State.pump_waitingFor {s : State} (hin : s.port.inHand = none) (w : Tagged) :
    (s.waitingFor (some w)).pump = (s.waitingFor none).takeInPort w := by
  have hin' : (s.waitingFor (some w)).port.inHand = none := hin
  have hw : (s.waitingFor (some w)).port.waiting = some w := rfl
  rw [State.pump, hin', hw]
  rfl

/-- What a command makes of a unit with a request waiting: the pump of what it makes of one with none, or a state with the
request still in hand. -/
def PumpsAfter (c : Instr) (s : State) (w : Tagged) : Prop :=
  ∃ u : State, exec c (s.waitingFor none) = .next u ∧ u.supplied = s.supplied ∧
    (u.port.inHand.isSome = true ∨ u.port.waiting = none ∧ exec c s = .next (u.waitingFor (some w)).pump)

/-- A command that answers and pumps, on both units alike. -/
theorem PumpsAfter.of_pumps {c : Instr} {s u : State} {w : Tagged} (hu : u.port.waiting = none)
    (hs : u.supplied = s.supplied) (hnone : exec c (s.waitingFor none) = .next u.pump)
    (hsome : exec c s = .next (u.waitingFor (some w)).pump) : PumpsAfter c s w :=
  ⟨u, hnone.trans (congrArg _ (State.pump_of_waiting_none hu)), hs, .inr ⟨hu, hsome⟩⟩

/-- A command that leaves the request in hand where it is. -/
theorem PumpsAfter.of_held {c : Instr} {s u : State} {w : Tagged} (hs : u.supplied = s.supplied)
    (hin : u.port.inHand.isSome = true) (hnone : exec c (s.waitingFor none) = .next u) : PumpsAfter c s w :=
  ⟨u, hnone, hs, .inl hin⟩

/-- The port of a state with a request waiting, put together again. -/
theorem State.waitingFor_self {s : State} {w : Option Tagged} (h : s.port.waiting = w) : s.waitingFor w = s := by
  rw [← h]; rfl

section
variable {s : State} {w : Tagged} (hs : s.supplied = true) (hin : s.port.inHand.isSome = true)
  (hw : s.port.waiting = some w)
include hs hin hw

theorem pumpsAfter_configBlockStored : PumpsAfter .configBlockStored s w := by
  obtain ⟨t, ht⟩ := Option.isSome_iff_exists.1 hin
  cases hb : s.ctl.blockWrite with
  | none =>
    refine .of_held (u := s.waitingFor none) rfl hin ?_
    show execConfigBlockStored (s.waitingFor none) = _
    rw [execConfigBlockStored, show (s.waitingFor none).ctl.blockWrite = none from hb]
  | some b =>
    have hexec {v : State} (hv : v.supplied = true) (hbv : v.ctl.blockWrite = some b) (htv : v.port.inHand = some t) :
        exec .configBlockStored v = .next ((v.storeBlock b).answer t .ok .none).pump := by
      have hstored : (v.storeBlock b).port.inHand = some t := htv
      show execConfigBlockStored v = _
      simp only [execConfigBlockStored, hbv, hv, if_true, State.blockStored, hstored]
    refine .of_pumps (u := (((s.waitingFor none).storeBlock b).answer t .ok .none)) rfl rfl (hexec hs hb ht) ?_
    rw [hexec hs hb ht]
    refine congrArg (fun u : State => Host.Outcome.next u.pump) ?_
    exact (State.waitingFor_self (s := (s.storeBlock b).answer t .ok .none) hw).symm

omit hs in
/-- A frame of the stop that is done with, on a unit with a request waiting. -/
theorem pumpsAfter_nextStopFrame (hstop : s.ctl.stopping.isSome = true) {c : Instr}
    (hexec : ∀ v : State, v = s ∨ v = s.waitingFor none → exec c v = .next v.nextStopFrame) : PumpsAfter c s w := by
  obtain ⟨t, ht⟩ := Option.isSome_iff_exists.1 hin
  have hnone := hexec _ (.inr rfl)
  have hsome := hexec _ (.inl rfl)
  let idle := s.setLink { s.link with inHand := none, stage := .idle }
  let idle' := idle.waitingFor none
  by_cases hlist : s.link.txList = []
  · have hend : s.nextStopFrame = idle.finishStop := if_pos hlist
    have hend' : (s.waitingFor none).nextStopFrame = idle'.finishStop := if_pos hlist
    rw [hend] at hsome
    rw [hend'] at hnone
    cases hwhy : s.ctl.stopping with
    | none => rw [hwhy] at hstop; exact absurd hstop Bool.false_ne_true
    | some why =>
      have hwhy1 : idle.ctl.stopping = some why := hwhy
      have hwhy2 : idle'.ctl.stopping = some why := hwhy
      rw [State.finishStop, hwhy1] at hsome
      rw [State.finishStop, hwhy2] at hnone
      cases why with
      | restart =>
        refine .of_pumps (u := (idle'.start .restart).release) rfl rfl hnone
          (hsome.trans (congrArg (fun u : State => Host.Outcome.next u.pump) ?_))
        exact (State.waitingFor_self (s := (idle.start .restart).release) hw).symm
      | halt =>
        have hans : idle.haltAnswered = idle.enterHalt.answer t .ok .none := by
          simp only [State.haltAnswered, show idle.enterHalt.port.inHand = some t from ht]
        have hans' : idle'.haltAnswered = idle'.enterHalt.answer t .ok .none := by
          simp only [State.haltAnswered, show idle'.enterHalt.port.inHand = some t from ht]
        replace hsome : exec c s = .next idle.haltAnswered.pump := hsome
        replace hnone : exec c (s.waitingFor none) = .next idle'.haltAnswered.pump := hnone
        rw [hans] at hsome
        rw [hans'] at hnone
        refine .of_pumps (u := idle'.enterHalt.answer t .ok .none) rfl rfl hnone
          (hsome.trans (congrArg (fun u : State => Host.Outcome.next u.pump) ?_))
        exact (State.waitingFor_self (s := idle.enterHalt.answer t .ok .none) hw).symm
  · have hhead : (s.waitingFor none).nextStopFrame = idle'.takeHead := if_neg hlist
    have hsupplied : (s.waitingFor none).nextStopFrame.supplied = s.supplied := by
      rw [hhead]; simp [idle', idle, State.waitingFor]
    have hheld : (s.waitingFor none).nextStopFrame.port.inHand.isSome = true := by
      rw [hhead]; simpa [idle', idle, State.waitingFor] using hin
    exact .of_held hsupplied hheld hnone

theorem pumpsAfter_stopFrameSkip : PumpsAfter .stopFrameSkip s w := by
  by_cases h : s.inStop = true ∧ s.skipDue = true
  · refine pumpsAfter_nextStopFrame hin hw (State.inStop_iff.1 h.1).2.2 fun v hv => ?_
    have hv' : v.inStop = true ∧ v.skipDue = true := by rcases hv with rfl | rfl <;> exact h
    show execStopFrameSkip v = _
    rw [execStopFrameSkip, if_pos hv']
  · exact .of_held (u := s.waitingFor none) rfl hin (congrArg Host.Outcome.next (if_neg h))

theorem pumpsAfter_stopFrameOutcome (outcome : Attempt) : PumpsAfter (.stopFrameOutcome outcome) s w := by
  by_cases h : s.inStop = true ∧ s.outcomeReached outcome = true
  · refine pumpsAfter_nextStopFrame hin hw (State.inStop_iff.1 h.1).2.2 fun v hv => ?_
    have hv' : v.inStop = true ∧ v.outcomeReached outcome = true := by rcases hv with rfl | rfl <;> exact h
    show execStopFrameOutcome outcome v = _
    rw [execStopFrameOutcome, if_pos hv']
  · exact .of_held (u := s.waitingFor none) rfl hin (congrArg Host.Outcome.next (if_neg h))

end

/-- Settles O12: each of the three commands pumps what it leaves, and the pump takes the waiting request as its command
does. -/
theorem waitingRequestIsTakenNext : Obligations.WaitingRequestIsTakenNext := by
  intro s u c w hc hs hin hw hsend hexec hu
  have hpumps : PumpsAfter c s w := by
    rcases hc with rfl | rfl | ⟨outcome, rfl⟩
    · exact pumpsAfter_configBlockStored hs hin hw
    · exact pumpsAfter_stopFrameSkip hs hin hw
    · exact pumpsAfter_stopFrameOutcome hs hin hw outcome
  obtain ⟨v, hnone, hsupplied, hcase⟩ := hpumps
  obtain rfl : v = u := Host.Outcome.next.inj (hnone.symm.trans hexec)
  rcases hcase with hheld | ⟨hwait, hpump⟩
  · rw [hu] at hheld; exact absurd hheld Bool.false_ne_true
  · have hfree : exec (commandOf w.tag w.request) v = .next (v.takeInPort w) := by
      rw [exec_commandOf w.tag hsend, State.receiveRequest, if_pos (hsupplied.trans hs), hu]
    rw [hpump, hfree, State.pump_waitingFor hu, State.waitingFor_self hwait]

end Sys2Proof.Machine
end


section
/-! PROOFS. The bay port's reads: the status, events and the capture, points and claims (R54, R144, R169 to R174), and the
clock's order (R119). -/
namespace Sys2Proof.Machine

/-! ### READ_STATUS -/

/-- Settles O16. -/
theorem readStatusReports : Obligations.ReadStatusReports := by
  refine fun s tag hs => ⟨_, exec_commandOf_admitted hs tag (r := .readStatus) trivial rfl, rfl, fun ph => ?_⟩
  cases ph <;> rfl

/-! ### Events, the capture and ALERT -/

theorem State.event_room {s : State} (h : s.port.events.length < 32) (b : EventBody) :
    s.event b = { s with port := { s.port with events := s.port.events ++ [⟨s.now, b⟩] } } := if_pos h

theorem State.event_full {s : State} (h : 32 ≤ s.port.events.length) (b : EventBody) :
    s.event b = { s with port := { s.port with lost := true } } := if_neg (Nat.not_lt.2 h)

theorem State.alert_iff (s : State) : s.alert = true ↔ s.port.events ≠ [] ∨ s.port.capture ≠ none := by
  rw [State.alert, Bool.or_eq_true, Bool.not_eq_true', List.isEmpty_eq_false_iff, Option.isSome_iff_ne_none]

/-- Settles O17: the three requests, the queue's rule and the alert. -/
theorem eventsCaptureAndAlert : Obligations.EventsCaptureAndAlert := by
  refine ⟨fun s tag hs hm => ⟨fun hnone => ?_, fun e rest hevents => ?_, fun hnone => ?_, fun c hcapture => ?_, ?_⟩,
    fun s b => ⟨fun hroom => ⟨State.event_room hroom b, ?_⟩, fun hfull => State.event_full hfull b⟩, State.alert_iff⟩
  · refine (exec_commandOf_read hs hm tag (r := .readEvent) trivial rfl).trans (congrArg Host.Outcome.next ?_)
    have hnone' : (s.holding tag .readEvent).port.events = [] := hnone
    show State.takeReadEvent _ _ = _
    rw [State.takeReadEvent, hnone']
    rfl
  · refine ⟨_, exec_commandOf_read hs hm tag (r := .readEvent) trivial rfl, ?_⟩
    have hevents' : (s.holding tag .readEvent).port.events = e :: rest := hevents
    show State.takeReadEvent _ _ = _
    rw [State.takeReadEvent, hevents']
    rfl
  · refine (exec_commandOf_read hs hm tag (r := .readCapture) trivial rfl).trans (congrArg Host.Outcome.next ?_)
    have hnone' : (s.holding tag .readCapture).port.capture = none := hnone
    show State.takeReadCapture _ _ = _
    rw [State.takeReadCapture, hnone']
    rfl
  · refine (exec_commandOf_read hs hm tag (r := .readCapture) trivial rfl).trans (congrArg Host.Outcome.next ?_)
    have hcapture' : (s.holding tag .readCapture).port.capture = some c := hcapture
    show State.takeReadCapture _ _ = _
    rw [State.takeReadCapture, hcapture']
    rfl
  · exact ⟨_, exec_commandOf_read hs hm tag (r := .unlockCapture) trivial rfl, rfl⟩
  · rw [State.alert_iff, State.event_room hroom b]
    exact .inl (List.append_ne_nil_of_right_ne_nil _ (List.cons_ne_nil _ _))

/-! ### READ_POINT -/

/-- Looking up by a key finds a row of the table with that key. -/
theorem mem_of_find_key {α : Type} {key : α → Nat} {l : List α} {n : Nat} {a : α}
    (h : l.find? (fun x => key x == n) = some a) : a ∈ l ∧ key a = n :=
  ⟨List.mem_of_find?_eq_some h, by simpa using List.find?_some h⟩

theorem find_key_eq_none {α : Type} {key : α → Nat} {l : List α} {n : Nat} :
    l.find? (fun x => key x == n) = none ↔ ∀ a ∈ l, key a ≠ n := by
  simp

theorem exec_readPoint {s : State} (hs : s.free) (hm : s.ctl.mode = .quiet ∨ s.ctl.mode = .run) (tag : Byte) (point : Nat) :
    exec (.readPoint tag point) s =
      .next ((s.holding tag (.readPoint point)).takeReadPoint ⟨tag, .readPoint point⟩ point) :=
  exec_commandOf_read hs hm tag (r := .readPoint point) trivial rfl

theorem exec_readPoint_entry {s : State} (hs : s.free) (hm : s.ctl.mode = .quiet ∨ s.ctl.mode = .run) (tag : Byte)
    {point : Nat} {e : PointEntry} (he : s.entry? point = some e) :
    exec (.readPoint tag point) s = .next (s.replied 0x20 tag .ok (.point (s.pointReply e))) := by
  have he' : (s.holding tag (.readPoint point)).entry? point = some e := he
  rw [exec_readPoint hs hm, State.takeReadPoint, he']
  rfl

theorem State.toExpiry_eq (s : State) (p : PeerRecord) :
    s.toExpiry p = if p.status = .good ∧ s.reached p.expiry = false then (p.expiry - s.now).toNat else 0 := by
  unfold State.toExpiry State.msTo
  by_cases hgood : p.status = .good
  · cases hr : s.reached p.expiry <;> simp [hgood]
  · rw [if_neg hgood, if_neg fun h => hgood h.1]

/-- Settles O18: the lookups of the point and of its owner, and the reply by the owner. -/
theorem readPointReports : Obligations.ReadPointReports := by
  refine fun s tag point hs hm => ⟨find_key_eq_none, fun e he => mem_of_find_key he,
    fun unit => ⟨find_key_eq_none, fun p hp => mem_of_find_key hp⟩, fun hnone => ?_, fun e he =>
    ⟨fun howner => ?_, fun p howner hp => ?_⟩⟩
  · have hnone' : (s.holding tag (.readPoint point)).entry? point = none := hnone
    rw [exec_readPoint hs hm, State.takeReadPoint, hnone']
    rfl
  · rw [exec_readPoint_entry hs hm tag he, State.pointReply, if_pos howner]
  · rw [← State.toExpiry_eq, exec_readPoint_entry hs hm tag he, State.pointReply, if_neg howner, hp]

/-! ### READ_CLAIMS (R144) -/

theorem insertRanked_perm (e : PeerClaim) (l : List PeerClaim) : (insertRanked e l).Perm (e :: l) := by
  induction l with
  | nil => exact .refl _
  | cons x rest ih =>
    rw [insertRanked]
    split
    · exact .refl _
    · exact (ih.cons x).trans (.swap e x rest)

theorem sortRanked_perm (l : List PeerClaim) : (sortRanked l).Perm l := by
  induction l with
  | nil => exact .refl _
  | cons e rest ih => exact (insertRanked_perm e _).trans (ih.cons e)

/-- No entry of the list has a better rank than one before it. -/
def RankSorted (l : List PeerClaim) : Prop := l.Pairwise fun a b => b.rank.better a.rank = false

theorem insertRanked_sorted (e : PeerClaim) {l : List PeerClaim} (h : RankSorted l) : RankSorted (insertRanked e l) := by
  induction l with
  | nil => exact List.pairwise_singleton _ _
  | cons x rest ih =>
    obtain ⟨hx, hrest⟩ := List.pairwise_cons.1 h
    rw [insertRanked]
    split
    next hbetter =>
      refine List.pairwise_cons.2 ⟨fun y hy => ?_, h⟩
      rcases List.mem_cons.1 hy with rfl | hy
      · exact Rank.better_asymm _ _ hbetter
      · rcases Rank.eq_or_better _ _ (hx y hy) with heq | hworse
        · rw [heq]; exact Rank.better_asymm _ _ hbetter
        · exact Rank.better_asymm _ _ (Rank.better_trans _ _ _ hbetter hworse)
    next hnot =>
      refine List.pairwise_cons.2 ⟨fun y hy => ?_, ih hrest⟩
      rcases List.mem_cons.1 ((insertRanked_perm e rest).mem_iff.1 hy) with rfl | hy
      · exact Bool.eq_false_of_not_eq_true hnot
      · exact hx y hy

theorem sortRanked_sorted (l : List PeerClaim) : RankSorted (sortRanked l) := by
  induction l with
  | nil => exact .nil
  | cons e rest ih => exact insertRanked_sorted e ih

/-- An entry not yet expired is reported with the time to its expiry. -/
theorem State.claimEntryReply_live {s : State} {e : PeerClaim} (h : s.reached e.expiry = false) :
    s.claimEntryReply e = ⟨e.unit, e.kind, e.urgency, e.defer, (e.expiry - s.now).toNat⟩ := by
  rw [State.claimEntryReply, State.msTo, h]
  rfl

theorem State.filter_live (s : State) (l : List PeerClaim) :
    l.filter s.live = l.filter fun e => s.reached e.expiry = false :=
  List.filter_congr fun e _ => Bool.eq_iff_iff.2 ((s.live_iff e).trans decide_eq_true_iff.symm)

/-- The entries of a zone, ranked, as READ_CLAIMS reports them. -/
theorem State.zoneReply_entries (s : State) (c : ZoneClaim) : ∃ ranked : List PeerClaim,
    ranked.Perm (c.peers.filter fun e => s.reached e.expiry = false) ∧ RankSorted ranked ∧
    (s.zoneReply c).entries = ranked.map fun e => ⟨e.unit, e.kind, e.urgency, e.defer, (e.expiry - s.now).toNat⟩ := by
  refine ⟨sortRanked (c.peers.filter s.live), ?_, sortRanked_sorted _, ?_⟩
  · rw [← State.filter_live]; exact sortRanked_perm _
  · refine List.map_congr_left fun e he => State.claimEntryReply_live ?_
    have hlive := List.of_mem_filter ((sortRanked_perm _).mem_iff.1 he)
    exact (s.live_iff e).1 hlive

theorem OwnState.isHeld_iff (o : OwnState) : o.isHeld = true ↔ ∃ refresh, o = .held refresh := by
  cases o <;> simp [OwnState.isHeld]

theorem OwnState.name_iff (o : OwnState) : (o.name = .idle ↔ o = .idle) ∧ (o.name = .waiting ↔ o = .waiting) ∧
    (o.name = .held ↔ o.isHeld = true) := by
  cases o <;> simp [OwnState.name, OwnState.isHeld]

/-- In a table whose keys rise, a row is found under its key. -/
theorem find_of_mem_rising {α : Type} {key : α → Nat} {l : List α} (h : (l.map key).Pairwise (· < ·)) {a : α} (ha : a ∈ l) :
    l.find? (fun x => key x == key a) = some a := by
  induction l with
  | nil => cases ha
  | cons x rest ih =>
    obtain ⟨hx, hrest⟩ := List.pairwise_cons.1 h
    rcases List.mem_cons.1 ha with rfl | ha
    · exact List.find?_cons_of_pos (beq_self_eq_true _)
    · have hne : ¬ (key x == key a) = true := by
        simpa using (hx (key a) (List.mem_map_of_mem ha)).ne
      exact (List.find?_cons_of_neg (p := fun x => key x == key a) hne).trans (ih hrest ha)

theorem State.zoneInv.zone?_of_mem {s : State} (h : s.zoneInv) {c : ZoneClaim} (hc : c ∈ s.claims.zones) :
    s.zone? c.zone = some c := find_of_mem_rising h.2.1 hc

theorem State.own_of_zone? {s : State} {z : Nat} {c : ZoneClaim} (h : s.zone? z = some c) : s.own z = c.own := by
  rw [State.own, h]

theorem State.peersOf_of_zone? {s : State} {z : Nat} {c : ZoneClaim} (h : s.zone? z = some c) : s.peersOf z = c.peers := by
  rw [State.peersOf, h]

theorem State.own_of_zone?_none {s : State} {z : Nat} (h : s.zone? z = none) : s.own z = .idle := by
  rw [State.own, h]

theorem State.peersOf_of_zone?_none {s : State} {z : Nat} (h : s.zone? z = none) : s.peersOf z = [] := by
  rw [State.peersOf, h]

/-- The held zones are listed in rising order (R127). -/
theorem State.zoneInv.heldZones_rising {s : State} (h : s.zoneInv) : s.heldZones.Pairwise (· < ·) :=
  h.2.1.sublist (List.filter_sublist.map _)

theorem State.zoneInv.mem_heldZones {s : State} (h : s.zoneInv) (z : Nat) :
    z ∈ s.heldZones ↔ (s.own z).isHeld = true := by
  constructor
  · intro hz
    obtain ⟨c, hc, rfl⟩ := List.mem_map.1 hz
    obtain ⟨hmem, hheld⟩ := List.mem_filter.1 hc
    rwa [State.own_of_zone? (h.zone?_of_mem hmem)]
  · intro hheld
    cases hc : s.zone? z with
    | none => rw [State.own_of_zone?_none hc] at hheld; exact absurd hheld Bool.false_ne_true
    | some c =>
      rw [State.own_of_zone? hc] at hheld
      obtain ⟨hmem, rfl⟩ := mem_of_find_key hc
      exact List.mem_map_of_mem (List.mem_filter.2 ⟨hmem, hheld⟩)

/-- Settles O21: the zones' reports in the table's order, and the lookups of a zone's record. -/
theorem readClaimsRanksEntries : Obligations.ReadClaimsRanksEntries := by
  refine ⟨fun s tag hs hm => ⟨s.claims.zones.map s.zoneReply, ?_, List.length_map _, fun i c z hc hz => ?_⟩,
    OwnState.isHeld_iff, fun s hinv => ⟨fun c hc => ?_, fun z hz => ?_, hinv.heldZones_rising, hinv.mem_heldZones⟩⟩
  · exact exec_commandOf_read hs hm tag (r := .readClaims) trivial rfl
  · obtain rfl : s.zoneReply c = z := by simpa [hc] using hz
    obtain ⟨hidle, hwaiting, hheld⟩ := OwnState.name_iff c.own
    exact ⟨rfl, hidle, hwaiting, hheld, s.zoneReply_entries c⟩
  · have hzone := hinv.zone?_of_mem hc
    exact ⟨hzone, State.own_of_zone? hzone, State.peersOf_of_zone? hzone⟩
  · have hzone : s.zone? z = none := find_key_eq_none.2 hz
    exact ⟨hzone, State.own_of_zone?_none hzone, State.peersOf_of_zone?_none hzone⟩

/-! ### The clock (R119) -/

theorem atOrAfter_iff (a b : Time) : atOrAfter a b = true ↔ (a - b).toNat < 2147483648 := decide_eq_true_iff

/-- Settles O55: less than 2^31 ms apart, readings compare in their true order. -/
theorem clockComparesAcrossTheWrap : Obligations.ClockComparesAcrossTheWrap := by
  refine ⟨fun s d => ⟨rfl, atOrAfter_iff _ _⟩, fun a b hle hnear => ⟨?_, fun hlt => ?_⟩⟩
  · rw [atOrAfter_iff, BitVec.toNat_sub, BitVec.toNat_ofNat, BitVec.toNat_ofNat]
    omega
  · rw [← Bool.not_eq_true, atOrAfter_iff, BitVec.toNat_sub, BitVec.toNat_ofNat, BitVec.toNat_ofNat]
    omega

end Sys2Proof.Machine
end


section
/-! PROOFS. Requests that wait, are answered OVERRUN or are discarded, and runs of request records (R166, R181). -/
namespace Sys2Proof.Machine

/-! ### Requests completed while one is in hand -/

theorem State.receive_waits {s : State} {inHand : Tagged} (hs : s.supplied = true) (hin : s.port.inHand = some inHand)
    (hw : s.port.waiting = none) (t : Tagged) :
    s.receiveRequest t = { s with port := { s.port with waiting := some t } } := by
  rw [State.receiveRequest, if_pos hs, hin, hw]
  rfl

theorem State.receive_overrun {s : State} {inHand w : Tagged} (hs : s.supplied = true) (hin : s.port.inHand = some inHand)
    (hw : s.port.waiting = some w) (t : Tagged) :
    s.receiveRequest t = { s with port := { s.port with
      replies := s.port.replies ++ [⟨requestTypeCode t.request, t.tag, .overrun, .none⟩] } } := by
  rw [State.receiveRequest, if_pos hs, hin, hw]
  rfl

theorem exec_overrun {s : State} (hs : s.supplied = true) (hin : s.port.inHand.isSome = true)
    (hw : s.port.waiting.isSome = true) (tag : Byte) (type : Nat) :
    exec (.overrun tag type) s =
      .next { s with port := { s.port with replies := s.port.replies ++ [⟨type, tag, .overrun, .none⟩] } } := by
  show execOverrun tag type s = _
  rw [execOverrun, if_pos ⟨hs, hin, hw⟩]
  rfl

/-! ### Records that are no request (R181) -/

/-- The bytes of the fields of a record of a known type, by R181's table; a PROGRAM's by its own step count. -/
def fieldsLength (type count : Nat) : Nat :=
  match type with
  | 0x04 => 66
  | 0x10 => 4
  | 0x11 => 2 + 3 * count
  | 0x12 => 1
  | 0x13 => 3
  | 0x20 => 2
  | 0x21 => 1
  | 0x30 => 2
  | _ => 0

/-- Fields that read as a request have the length that the table gives for the type. -/
theorem length_of_parseFields_some {type : Nat} {fields : List Byte} {r : Request} (hknown : type ∈ knownTypes)
    (h : parseFields type fields = some r) : fields.length = fieldsLength type (fields.getD 1 0).toNat := by
  simp only [knownTypes, List.mem_cons, List.not_mem_nil, or_false] at hknown
  rcases hknown with rfl | rfl | rfl | rfl | rfl | rfl | rfl | rfl | rfl | rfl | rfl | rfl | rfl | rfl | rfl | rfl
  case inr.inr.inr.inl =>
    rcases fields with _ | ⟨o1, _ | ⟨o0, block⟩⟩
    · exact nomatch h
    · exact nomatch h
    · have hlen : block.length = 64 := (Option.ite_none_right_eq_some.1 (h : (if block.length = Config.blockBytes then
        some (Request.writeConfig (dec16 o1 o0) block) else none) = some r)).1
      simp [hlen, fieldsLength]
  case inr.inr.inr.inr.inr.inl =>
    rcases fields with _ | ⟨u, _ | ⟨n, steps⟩⟩
    · exact nomatch h
    · exact nomatch h
    · have hlen := (Option.ite_none_right_eq_some.1 (h : (if steps.length = 3 * n.toNat then
        some (Request.program u.toNat (parseSteps steps)) else none) = some r)).1
      simp [hlen, fieldsLength]
      omega
  all_goals
    rcases fields with _ | ⟨a, _ | ⟨b, _ | ⟨c, _ | ⟨d, _ | ⟨e, rest⟩⟩⟩⟩⟩ <;> first | rfl | exact nomatch h

/-- Only a PROGRAM's length turns on its step count. -/
theorem fieldsLength_congr {type m n : Nat} (h : type = 0x11 → m = n) : fieldsLength type m = fieldsLength type n := by
  unfold fieldsLength
  split
  case h_3 => rw [h rfl]
  all_goals rfl

/-- A record that is a request of a known type has the length that R181's table gives. -/
theorem length_of_parseRecord {bs : List Byte} {t : Tagged} (h : parseRecord bs = some t)
    (hknown : (bs.getD 2 0).toNat ∈ knownTypes) :
    bs.length = 6 + fieldsLength (bs.getD 2 0).toNat (bs.getD 5 0).toNat := by
  unfold parseRecord at h
  split at h
  next l1 l0 type tag rest =>
    obtain ⟨⟨-, hlen, -⟩, h⟩ := Option.ite_none_right_eq_some.1 h
    rw [if_pos (List.contains_iff_mem.2 (by exact hknown))] at h
    obtain ⟨r, hr, -⟩ := Option.map_eq_some_iff.1 h
    have hfields := length_of_parseFields_some (type := type.toNat) hknown hr
    have hrest : rest.length = 2 + fieldsLength type.toNat ((rest.take (rest.length - 2)).getD 1 0).toNat := by
      rw [← hfields, List.length_take]
      simp only [List.length_cons] at hlen
      omega
    have hcount : type.toNat = 0x11 → (rest.take (rest.length - 2)).getD 1 0 = rest.getD 1 0 := by
      intro htype
      rw [htype, fieldsLength] at hrest
      simp only [List.getD_eq_getElem?_getD]
      rw [List.getElem?_take_of_lt (by omega)]
    rw [fieldsLength_congr fun htype => congrArg BitVec.toNat (hcount htype)] at hrest
    show rest.length + 4 = 6 + fieldsLength type.toNat (rest.getD 1 0).toNat
    omega
  next => cases h

theorem exec_discard_of_none {bs : List Byte} (h : parseRecord bs = none) (s : State) :
    exec (.requestRecordDiscard bs) s = .next s := by
  show Host.Outcome.next (s.receiveRecord bs) = _
  rw [State.receiveRecord, h]

theorem exec_discard_of_some {bs : List Byte} {t : Tagged} (h : parseRecord bs = some t) (s : State) :
    exec (.requestRecordDiscard bs) s = .next (s.receiveRequest t) := by
  show Host.Outcome.next (s.receiveRecord bs) = _
  rw [State.receiveRecord, h]

/-- A record shorter than 6 bytes, of another length than it says, or with a bad CRC is no request. -/
theorem parseRecord_eq_none {bs : List Byte}
    (h : bs.length < 6 ∨ dec16 (bs.getD 0 0) (bs.getD 1 0) ≠ bs.length ∨ crcGood bs = false) : parseRecord bs = none := by
  unfold parseRecord
  split
  next l1 l0 type tag rest =>
    refine if_neg ?_
    rintro ⟨hlen, hsix, hcrc⟩
    rcases h with h | h | h
    · exact absurd hsix (Nat.not_le.2 h)
    · exact h hlen
    · rw [hcrc] at h; cases h
  next => rfl

/-- The lengths that R181's table does not give, type by type. -/
theorem known_of_badLength {type l count : Nat}
    (h : type ∈ [0x01, 0x02, 0x03, 0x22, 0x23, 0x24, 0x25, 0x31] ∧ l ≠ 6 ∨ type ∈ [0x12, 0x21] ∧ l ≠ 7 ∨
      type ∈ [0x20, 0x30] ∧ l ≠ 8 ∨ type = 0x13 ∧ l ≠ 9 ∨ type = 0x10 ∧ l ≠ 10 ∨ type = 0x04 ∧ l ≠ 72 ∨
      type = 0x11 ∧ l ≠ 8 + 3 * count) : type ∈ knownTypes ∧ l ≠ 6 + fieldsLength type count := by
  simp only [List.mem_cons, List.not_mem_nil, or_false] at h
  rcases h with ⟨rfl | rfl | rfl | rfl | rfl | rfl | rfl | rfl, hl⟩ | ⟨rfl | rfl, hl⟩ | ⟨rfl | rfl, hl⟩ | ⟨rfl, hl⟩ |
    ⟨rfl, hl⟩ | ⟨rfl, hl⟩ | ⟨rfl, hl⟩
  case inr.inr.inr.inr.inr.inr =>
    refine ⟨by decide, ?_⟩
    rw [fieldsLength]
    omega
  all_goals exact ⟨by decide, hl⟩

/-- A record of a known type whose length is not that of the table is no request. -/
theorem parseRecord_eq_none_of_length {bs : List Byte} (hknown : (bs.getD 2 0).toNat ∈ knownTypes)
    (h : bs.length ≠ 6 + fieldsLength (bs.getD 2 0).toNat (bs.getD 5 0).toNat) : parseRecord bs = none :=
  Option.eq_none_iff_forall_ne_some.2 fun _ ht => h (length_of_parseRecord ht hknown)

/-! ### Runs of records -/

/-- Records taken one after the other are their commands in turn. -/
theorem next_receiveRecords (records : List (List Byte)) (s : State) :
    Host.Outcome.next (receiveRecords records s) = inTurn (records.map .requestRecordDiscard) s := by
  induction records generalizing s with
  | nil => rfl
  | cons r rest ih => exact ih (s.receiveRecord r)

/-- Bytes before a gap are the records completed in them, one after the other. -/
theorem exec_gap {records : List (List Byte)} {rest : List Byte}
    (h1 : ∀ r ∈ records, r.length = max 2 (dec16 (r.getD 0 0) (r.getD 1 0)))
    (h2 : rest.length < 2 ∨ rest.length < dec16 (rest.getD 0 0) (rest.getD 1 0)) (s : State) :
    exec (.recordGapTimeout (records.flatten ++ rest)) s = inTurn (records.map .requestRecordDiscard) s := by
  show Host.Outcome.next (receiveRecords (completedRecords (records.flatten ++ rest).length (records.flatten ++ rest)) s) = _
  rw [completedRecords_flatten _ records rest h1 h2 (Nat.le_refl _), next_receiveRecords]

/-! ### The records of requests -/

theorem requestTypeCode_known {r : Request} (h : ∀ type, r ≠ .unknown type) : requestTypeCode r ∈ knownTypes := by
  cases r with
  | unknown type => exact absurd rfl (h type)
  | _ => simp [requestTypeCode, knownTypes]

/-- A request whose fields fit can be sent. -/
theorem sendable_of_wellFormed {tag : Byte} {r : Request} (h : (commandOf tag r).wellFormed = true) : Sendable r := by
  cases r with
  | writeConfig offset data => exact eq_of_beq ((Bool.and_eq_true_iff.1 h).2)
  | unknown type =>
    have hnot : (!knownTypes.contains type) = true := (Bool.and_eq_true_iff.1 h).2
    exact (Bool.not_eq_true' _).mp hnot
  | _ => trivial

theorem requestTypeCode_lt {tag : Byte} {r : Request} (h : (commandOf tag r).wellFormed = true) :
    requestTypeCode r < 256 := by
  cases r with
  | unknown type => exact of_decide_eq_true (Bool.and_eq_true_iff.1 h).1
  | _ => exact Nat.le_of_ble_eq_true rfl

/-- The record of a request is read as the request. -/
theorem parseRecord_request {tag : Byte} {r : Request} (h : (commandOf tag r).wellFormed = true) :
    parseRecord (recordBytes (requestTypeCode r) tag (requestFields r)) = some ⟨tag, r⟩ := by
  rw [parseRecord_recordBytes _ _ _ (requestTypeCode_lt h) (length_requestFields tag r h)]
  by_cases hu : ∃ type, r = .unknown type
  · obtain ⟨type, rfl⟩ := hu
    have hunknown : knownTypes.contains type = false := sendable_of_wellFormed h
    exact if_neg (Bool.eq_false_iff.1 hunknown)
  · have hknown : ∀ type, r ≠ .unknown type := fun type heq => hu ⟨type, heq⟩
    rw [if_pos (List.contains_iff_mem.2 (requestTypeCode_known hknown)), parseFields_requestFields tag r h hknown]
    rfl

/-- Settles O15: the waiting request and OVERRUN, the records discarded, the records of requests, and runs of records. -/
theorem requestsWaitOrAreTurnedAway : Obligations.RequestsWaitOrAreTurnedAway := by
  refine ⟨fun s tag r inHand hs hin hsend => ⟨fun hw => ?_, fun w hw => ⟨?_, fun type => ?_⟩⟩,
    fun s record h => exec_discard_of_none (parseRecord_eq_none h) s, ?_, fun s bytes h => exec_gap (records := []) nofun h s,
    fun s tag type hs hu => ?_, fun r => ?_, fun s tag r h => ?_, fun s tag type fields htype hu hlen => ?_,
    fun s records rest h1 h2 => exec_gap h1 h2 s⟩
  · rw [exec_commandOf tag hsend, State.receive_waits hs hin hw]
  · rw [exec_commandOf tag hsend, State.receive_overrun hs hin hw]
  · exact exec_overrun hs (Option.isSome_iff_exists.2 ⟨_, hin⟩) (Option.isSome_iff_exists.2 ⟨_, hw⟩) tag type
  · intro s record type l h
    obtain ⟨hknown, hlen⟩ := known_of_badLength h
    exact exec_discard_of_none (parseRecord_eq_none_of_length hknown hlen) s
  · exact exec_commandOf_refused hs tag (r := .unknown type) hu (by cases s.ctl.mode <;> rfl)
  · cases r <;> rfl
  · rw [exec_discard_of_some (parseRecord_request h), exec_commandOf tag (sendable_of_wellFormed h)]
  · have hunknown : ¬ knownTypes.contains type = true := Bool.eq_false_iff.1 hu
    have hparse : parseRecord (recordBytes type tag fields) = some ⟨tag, .unknown type⟩ := by
      rw [parseRecord_recordBytes type tag fields htype hlen, if_neg hunknown]
    rw [exec_discard_of_some hparse]
    exact (exec_commandOf tag (r := .unknown type) hu s).symm

end Sys2Proof.Machine
end


section
/-! PROOFS. Colourings (chapter 4): reachability as chains (R64), and what the sets, islands and regions of a colouring are. -/
namespace Sys2Proof.Machine

/-! ### Passes over the paths (R64) -/

theorem mem_growBy (acc : List Nat) (e : Nat × Nat) (n : Nat) :
    n ∈ growBy acc e ↔ n ∈ acc ∨ n = e.1 ∧ e.2 ∈ acc ∨ n = e.2 ∧ e.1 ∈ acc := by
  unfold growBy
  by_cases h1 : e.1 ∈ acc
  · by_cases h2 : e.2 ∈ acc
    · simp only [List.contains_iff_mem.2 h1, List.contains_iff_mem.2 h2, if_true]
      constructor
      · exact .inl
      · rintro (h | ⟨rfl, -⟩ | ⟨rfl, -⟩) <;> assumption
    · simp [h1, h2, or_comm]
  · by_cases h2 : e.2 ∈ acc
    · simp [h1, h2, or_comm]
    · simp [h1, h2]

theorem subset_growPass (edges : List (Nat × Nat)) (set : List Nat) : set ⊆ growPass edges set := by
  induction edges generalizing set with
  | nil => exact List.Subset.refl set
  | cons e rest ih => exact fun n hn => ih (growBy set e) ((mem_growBy set e n).2 (.inl hn))

/-- A path with an end in the set has both in the set after a pass. -/
theorem ends_mem_growPass {edges : List (Nat × Nat)} {set : List Nat} {e : Nat × Nat} (he : e ∈ edges)
    (hend : e.1 ∈ set ∨ e.2 ∈ set) : e.1 ∈ growPass edges set ∧ e.2 ∈ growPass edges set := by
  induction edges generalizing set with
  | nil => cases he
  | cons x rest ih =>
    rcases List.mem_cons.1 he with rfl | he
    · have hgrown : e.1 ∈ growBy set e ∧ e.2 ∈ growBy set e := by
        simp only [mem_growBy]; tauto
      exact ⟨subset_growPass rest _ hgrown.1, subset_growPass rest _ hgrown.2⟩
    · exact ih he (hend.imp (fun h => (mem_growBy set x _).2 (.inl h)) fun h => (mem_growBy set x _).2 (.inl h))

/-- What a pass adds is joined to the set by a chain of the paths. -/
theorem chain_of_mem_growPass {all edges : List (Nat × Nat)} {seeds set : List Nat} (hsub : edges ⊆ all)
    (hset : ∀ n ∈ set, ∃ m ∈ seeds, Relation.ReflTransGen (Joined all) m n) :
    ∀ n ∈ growPass edges set, ∃ m ∈ seeds, Relation.ReflTransGen (Joined all) m n := by
  induction edges generalizing set with
  | nil => exact hset
  | cons e rest ih =>
    refine ih (fun x hx => hsub (List.mem_cons_of_mem e hx)) fun n hn => ?_
    have he : (e.1, e.2) ∈ all := hsub List.mem_cons_self
    rcases (mem_growBy set e n).1 hn with hn | ⟨rfl, hend⟩ | ⟨rfl, hend⟩
    · exact hset n hn
    · obtain ⟨m, hm, hchain⟩ := hset _ hend
      exact ⟨m, hm, hchain.tail (.inr he)⟩
    · obtain ⟨m, hm, hchain⟩ := hset _ hend
      exact ⟨m, hm, hchain.tail (.inl he)⟩

theorem chain_of_mem_growPasses {edges : List (Nat × Nat)} {seeds : List Nat} (n : Nat) {set : List Nat}
    (hset : ∀ x ∈ set, ∃ m ∈ seeds, Relation.ReflTransGen (Joined edges) m x) :
    ∀ x ∈ growPasses edges n set, ∃ m ∈ seeds, Relation.ReflTransGen (Joined edges) m x := by
  induction n generalizing set with
  | zero => exact hset
  | succ n ih => exact ih (chain_of_mem_growPass (List.Subset.refl edges) hset)

theorem subset_growPasses (edges : List (Nat × Nat)) (n : Nat) (set : List Nat) : set ⊆ growPasses edges n set := by
  induction n generalizing set with
  | zero => exact List.Subset.refl set
  | succ n ih => exact fun x hx => ih _ (subset_growPass edges set hx)

/-- No path leads out of the set. -/
def NoPathOut (edges : List (Nat × Nat)) (set : List Nat) : Prop := ∀ e ∈ edges, e.1 ∈ set ↔ e.2 ∈ set

/-- The paths with no end in the set. -/
def untouched (edges : List (Nat × Nat)) (set : List Nat) : List (Nat × Nat) :=
  edges.filter fun e => !set.contains e.1 && !set.contains e.2

theorem mem_untouched {edges : List (Nat × Nat)} {set : List Nat} {e : Nat × Nat} :
    e ∈ untouched edges set ↔ e ∈ edges ∧ e.1 ∉ set ∧ e.2 ∉ set := by
  simp [untouched]

/-- A pass changes no set that no path leads out of. -/
theorem noPathOut_growPass {edges : List (Nat × Nat)} {set : List Nat} (h : NoPathOut edges set) :
    NoPathOut edges (growPass edges set) := by
  have hsame : ∀ rest : List (Nat × Nat), rest ⊆ edges → ∀ n, n ∈ growPass rest set ↔ n ∈ set := by
    intro rest
    induction rest with
    | nil => exact fun _ n => Iff.rfl
    | cons e rest ih =>
      intro hsub n
      have he := h e (hsub List.mem_cons_self)
      have hgrow : growBy set e = set := by
        unfold growBy
        by_cases h1 : e.1 ∈ set
        · simp [h1, he.1 h1]
        · have h2 : e.2 ∉ set := fun h2 => h1 (he.2 h2)
          simp [h1, h2]
      show n ∈ growPass rest (growBy set e) ↔ n ∈ set
      rw [hgrow]
      exact ih (fun x hx => hsub (List.mem_cons_of_mem e hx)) n
  intro e he
  rw [hsame edges (List.Subset.refl edges), hsame edges (List.Subset.refl edges)]
  exact h e he

/-- A pass that does not reach the whole set touches a path that was untouched. -/
theorem untouched_decreases {edges : List (Nat × Nat)} {set : List Nat} (h : ¬ NoPathOut edges (growPass edges set)) :
    (untouched edges (growPass edges set)).length < (untouched edges set).length := by
  have hsub : (untouched edges (growPass edges set)).Sublist (untouched edges set) := by
    refine List.monotone_filter_right edges fun e he => ?_
    simp only [Bool.and_eq_true, Bool.not_eq_true', List.contains_eq_mem, decide_eq_false_iff_not] at he ⊢
    exact ⟨fun hmem => he.1 (subset_growPass edges set hmem), fun hmem => he.2 (subset_growPass edges set hmem)⟩
  obtain ⟨e, he, hout⟩ : ∃ e ∈ edges, ¬ (e.1 ∈ growPass edges set ↔ e.2 ∈ growPass edges set) := by
    simpa [NoPathOut] using h
  have hfresh : e ∈ untouched edges set := by
    refine mem_untouched.2 ⟨he, fun h1 => hout ?_, fun h2 => hout ?_⟩
    · exact iff_of_true (ends_mem_growPass he (.inl h1)).1 (ends_mem_growPass he (.inl h1)).2
    · exact iff_of_true (ends_mem_growPass he (.inr h2)).1 (ends_mem_growPass he (.inr h2)).2
  have htouched : e ∉ untouched edges (growPass edges set) := by
    rw [mem_untouched]
    rintro ⟨-, h1, h2⟩
    exact hout (iff_of_false h1 h2)
  refine lt_of_le_of_ne hsub.length_le fun hlen => htouched ?_
  rw [hsub.eq_of_length hlen]
  exact hfresh

/-- More passes than paths untouched reach everything. -/
theorem noPathOut_growPasses {edges : List (Nat × Nat)} (n : Nat) {set : List Nat}
    (h : NoPathOut edges set ∨ (untouched edges set).length < n) : NoPathOut edges (growPasses edges n set) := by
  induction n generalizing set with
  | zero => exact h.resolve_right (Nat.not_lt_zero _)
  | succ n ih =>
    refine ih ?_
    rcases h with h | h
    · exact .inl (noPathOut_growPass h)
    · by_cases hdone : NoPathOut edges (growPass edges set)
      · exact .inl hdone
      · exact .inr (by have := untouched_decreases hdone; omega)

/-- As many passes as paths reach every node that a chain joins to a start node. -/
theorem noPathOut_reach (edges : List (Nat × Nat)) (seeds : List Nat) : NoPathOut edges (reach edges seeds) := by
  refine noPathOut_growPasses edges.length ?_
  rcases Nat.lt_or_eq_of_le (List.length_filter_le _ edges : (untouched edges seeds).length ≤ edges.length) with hlt | heq
  · exact .inr hlt
  · refine .inl fun e he => ?_
    have hfresh : e ∈ untouched edges seeds := by
      rw [untouched, List.length_filter_eq_length_iff.1 heq |> List.filter_eq_self.2]
      exact he
    obtain ⟨-, h1, h2⟩ := mem_untouched.1 hfresh
    exact iff_of_false h1 h2

/-- Settles O22: what the passes add is chained to the start nodes, and they end with a set no path leads out of. -/
theorem reachIsExactlyTheChains : Obligations.ReachIsExactlyTheChains := by
  intro edges seeds n
  constructor
  · exact chain_of_mem_growPasses edges.length (fun x hx => ⟨x, hx, .refl⟩) n
  · rintro ⟨m, hm, hchain⟩
    induction hchain with
    | refl => exact subset_growPasses edges _ seeds hm
    | tail _ hjoined ih =>
      rcases hjoined with he | he
      · exact (noPathOut_reach edges seeds _ he).1 ih
      · exact (noPathOut_reach edges seeds _ he).2 ih

/-! ### The searches of a colouring as chains (R64 to R72) -/

section
variable (s : State) (r : Reading) (pr : Option Prospect)

/-- A search over the switches of the admitted classes reaches what chains of them join to its seeds. -/
theorem mem_reach_pathsOf {allow : SwitchClass → Bool} {ok : SwitchClass → Prop} (h : ∀ k, allow k = true ↔ ok k)
    (out : Option Nat) (seeds : List Nat) (n : Nat) :
    n ∈ reach (pathsOf (s.classedSwitches r pr) allow out) seeds ↔ ∃ m ∈ seeds, s.Chain r pr ok out m n := by
  rw [reachIsExactlyTheChains, joined_pathsOf s r pr allow ok h out]
  rfl

theorem mem_liveCertain (n : Nat) : n ∈ (s.colouring r pr).liveCertain ↔
    ∃ m, s.sourceAt r (· = .vp) m ∧ s.Chain r pr (fun k => k = .cc) none m n := by
  refine (mem_reach_pathsOf s r pr ccOnly_iff none _ n).trans (exists_congr fun m => and_congr_left' ?_)
  exact mem_sourceNodes s r vpOnly _ vpOnly_iff m

theorem mem_livePossible (n : Nat) : n ∈ (s.colouring r pr).livePossible ↔
    ∃ m, s.sourceAt r (· ≠ .va) m ∧ s.Chain r pr (fun k => k ≠ .co) none m n := by
  refine (mem_reach_pathsOf s r pr ccOrUn_iff none _ n).trans (exists_congr fun m => and_congr_left' ?_)
  exact mem_sourceNodes s r vpOrVu _ vpOrVu_iff m

theorem mem_earthCertain (n : Nat) : n ∈ (s.colouring r pr).earthCertain ↔
    ∃ m, s.earthAt r pr (fun k => k = .cc) m ∧ s.Chain r pr (fun k => k = .cc) none m n := by
  refine (mem_reach_pathsOf s r pr ccOnly_iff none _ n).trans (exists_congr fun m => and_congr_left' ?_)
  exact mem_earthSeeds s r pr ccOnly _ ccOnly_iff m

theorem mem_earthPossible (n : Nat) : n ∈ (s.colouring r pr).earthPossible ↔
    ∃ m, s.earthAt r pr (fun k => k ≠ .co) m ∧ s.Chain r pr (fun k => k ≠ .co) none m n := by
  refine (mem_reach_pathsOf s r pr ccOrUn_iff none _ n).trans (exists_congr fun m => and_congr_left' ?_)
  exact mem_earthSeeds s r pr ccOrUn _ ccOrUn_iff m

theorem mem_island (id x n : Nat) : n ∈ (s.colouring r pr).island id x ↔
    s.Chain r pr (fun k => k ≠ .co) (some id) x n := by
  refine (mem_reach_pathsOf s r pr ccOrUn_iff (some id) [x] n).trans ?_
  simp

theorem isolated_iff (id x : Nat) : (s.colouring r pr).isolated id x = true ↔
    ∀ n, s.Chain r pr (fun k => k ≠ .co) (some id) x n →
      ¬ s.sourceAt r (· ≠ .va) n ∧ ¬ s.earthAt r pr (fun k => k ≠ .co) n := by
  have hsource (n : Nat) : n ∈ sourceNodes (s.colouring r pr).sources vpOrVu ↔ s.sourceAt r (· ≠ .va) n :=
    mem_sourceNodes s r vpOrVu _ vpOrVu_iff n
  have hearth (n : Nat) : n ∈ earthSeeds (s.colouring r pr).switches ccOrUn ↔ s.earthAt r pr (fun k => k ≠ .co) n :=
    mem_earthSeeds s r pr ccOrUn _ ccOrUn_iff n
  simp only [Colouring.isolated, Bool.and_eq_true, Bool.not_eq_true', List.any_eq_false, List.contains_iff_mem,
    mem_island, hsource, hearth]
  exact ⟨fun h n hn => ⟨fun hs => h.1 n hs hn, fun he => h.2 n he hn⟩,
    fun h => ⟨fun n hs hn => (h n hn).1 hs, fun n he hn => (h n hn).2 he⟩⟩

theorem bridged_iff (id x y : Nat) : (s.colouring r pr).bridged id x y = true ↔
    s.Chain r pr (fun k => k = .cc) (some id) x y := by
  refine List.contains_iff_mem.trans ((mem_reach_pathsOf s r pr ccOnly_iff (some id) [x] y).trans ?_)
  simp

theorem mem_region (p : PointDef) (n : Nat) : n ∈ (s.colouring r pr).region p ↔
    s.Chain r pr (fun k => k ≠ .co) none p.nodeA n ∨
      p.kind ≠ .earthing ∧ s.Chain r pr (fun k => k ≠ .co) none p.nodeB n := by
  refine (mem_reach_pathsOf s r pr ccOrUn_iff none _ n).trans ?_
  by_cases hk : p.kind = .earthing <;> simp [conductorNodes, hk]

/-! ### Certain and possible -/

/-- A chain of switches of class CC is one of class CC or UN. -/
theorem State.Chain.possible {out : Option Nat} {m n : Nat} (h : s.Chain r pr (fun k => k = .cc) out m n) :
    s.Chain r pr (fun k => k ≠ .co) out m n := by
  refine Relation.ReflTransGen.mono ?_ _ _ h
  rintro a b ⟨p, hp, hkind, hcc, hout, hnodes⟩
  exact ⟨p, hp, hkind, by rw [hcc]; exact (nomatch ·), hout, hnodes⟩

theorem liveCertain_possible {n : Nat} (h : n ∈ (s.colouring r pr).liveCertain) : n ∈ (s.colouring r pr).livePossible := by
  obtain ⟨m, ⟨p, hp, hkind, hnode, hvp⟩, hchain⟩ := (mem_liveCertain s r pr n).1 h
  exact (mem_livePossible s r pr n).2 ⟨m, ⟨p, hp, hkind, hnode, by rw [hvp]; exact (nomatch ·)⟩, hchain.possible⟩

theorem earthCertain_possible {n : Nat} (h : n ∈ (s.colouring r pr).earthCertain) :
    n ∈ (s.colouring r pr).earthPossible := by
  obtain ⟨m, ⟨p, hp, hkind, hnode, hcc⟩, hchain⟩ := (mem_earthCertain s r pr n).1 h
  exact (mem_earthPossible s r pr n).2 ⟨m, ⟨p, hp, hkind, hnode, by rw [hcc]; exact (nomatch ·)⟩, hchain.possible⟩

/-- In a favourable reading every switch that is not CO is CC, and every voltage point that is not VA is VP (R63). -/
theorem switchClass_eq_cc {r : Reading} (hr : r ≠ .plain) {id : Nat} (h : s.switchClass r pr id ≠ .co) :
    s.switchClass r pr id = .cc := by
  have hsure := switchClass_sure s r pr id hr
  cases hc : s.switchClass r pr id with
  | cc => rfl
  | co => exact absurd hc h
  | un => exact absurd hc hsure

theorem voltageClass_eq_vp {r : Reading} (hr : r ≠ .plain) {id : Nat} (h : s.voltageClass r id ≠ .va) :
    s.voltageClass r id = .vp := by
  have hsure := voltageClass_sure s r id hr
  cases hc : s.voltageClass r id with
  | vp => rfl
  | va => exact absurd hc h
  | vu => exact absurd hc hsure

theorem State.Chain.certain {r : Reading} (hr : r ≠ .plain) {out : Option Nat} {m n : Nat}
    (h : s.Chain r pr (fun k => k ≠ .co) out m n) : s.Chain r pr (fun k => k = .cc) out m n := by
  refine Relation.ReflTransGen.mono ?_ _ _ h
  rintro a b ⟨p, hp, hkind, hnot, hout, hnodes⟩
  exact ⟨p, hp, hkind, switchClass_eq_cc s pr hr hnot, hout, hnodes⟩

theorem livePossible_certain {r : Reading} (hr : r ≠ .plain) {n : Nat} (h : n ∈ (s.colouring r pr).livePossible) :
    n ∈ (s.colouring r pr).liveCertain := by
  obtain ⟨m, ⟨p, hp, hkind, hnode, hva⟩, hchain⟩ := (mem_livePossible s r pr n).1 h
  exact (mem_liveCertain s r pr n).2 ⟨m, ⟨p, hp, hkind, hnode, voltageClass_eq_vp s hr hva⟩, hchain.certain s pr hr⟩

theorem earthPossible_certain {r : Reading} (hr : r ≠ .plain) {n : Nat} (h : n ∈ (s.colouring r pr).earthPossible) :
    n ∈ (s.colouring r pr).earthCertain := by
  obtain ⟨m, ⟨p, hp, hkind, hnode, hco⟩, hchain⟩ := (mem_earthPossible s r pr n).1 h
  exact (mem_earthCertain s r pr n).2 ⟨m, ⟨p, hp, hkind, hnode, switchClass_eq_cc s pr hr hco⟩, hchain.certain s pr hr⟩

end

/-! ### Facts (R67, R68) -/

theorem factOf_eq_no_iff {certain possible : List Nat} {n : Nat} (h : n ∈ certain → n ∈ possible) :
    factOf certain possible n = .no ↔ n ∉ possible := by
  unfold factOf
  by_cases hc : n ∈ certain
  · simp [hc, h hc]
  · by_cases hp : n ∈ possible <;> simp [hc, hp]

theorem factOf_ne_maybe {certain possible : List Nat} {n : Nat} (h : n ∈ possible → n ∈ certain) :
    factOf certain possible n ≠ .maybe :=
  fun heq => (factOf_eq_maybe_iff.1 heq).2 (h (factOf_eq_maybe_iff.1 heq).1)

section
variable (s : State) (r : Reading) (pr : Option Prospect) (n : Nat)

theorem live_eq_yes_iff : (s.colouring r pr).live n = .yes ↔ n ≠ 0 ∧ n ∈ (s.colouring r pr).liveCertain := by
  by_cases hn : n = 0
  · subst hn; simp
  · rw [Colouring.live_of_ne_zero _ hn, factOf_eq_yes_iff]; simp [hn]

theorem live_eq_no_iff : (s.colouring r pr).live n = .no ↔ n = 0 ∨ n ∉ (s.colouring r pr).livePossible := by
  by_cases hn : n = 0
  · subst hn; simp
  · rw [Colouring.live_of_ne_zero _ hn, factOf_eq_no_iff (liveCertain_possible s r pr)]; simp [hn]

theorem earthed_eq_yes_iff : (s.colouring r pr).earthed n = .yes ↔ n = 0 ∨ n ∈ (s.colouring r pr).earthCertain := by
  by_cases hn : n = 0
  · subst hn; simp
  · rw [Colouring.earthed_of_ne_zero _ hn, factOf_eq_yes_iff]; simp [hn]

theorem earthed_eq_no_iff : (s.colouring r pr).earthed n = .no ↔ n ≠ 0 ∧ n ∉ (s.colouring r pr).earthPossible := by
  by_cases hn : n = 0
  · subst hn; simp
  · rw [Colouring.earthed_of_ne_zero _ hn, factOf_eq_no_iff (earthCertain_possible s r pr)]; simp [hn]

/-- In a favourable reading no fact is MAYBE (R67). -/
theorem facts_sure {r : Reading} (hr : r ≠ .plain) :
    (s.colouring r pr).live n ≠ .maybe ∧ (s.colouring r pr).earthed n ≠ .maybe := by
  by_cases hn : n = 0
  · subst hn; simp
  · rw [Colouring.live_of_ne_zero _ hn, Colouring.earthed_of_ne_zero _ hn]
    exact ⟨factOf_ne_maybe (livePossible_certain s pr hr), factOf_ne_maybe (earthPossible_certain s pr hr)⟩

end

/-! ### Classes (R60 to R63) -/

section
variable {s : State} {r : Reading} {pr : Option Prospect} {id : Nat} {e : PointEntry}

theorem switchClass_forced {p : Prospect} (hp : pr = some p) (hid : p.switch = id) :
    s.switchClass r pr id = match p.target with | .closed => .cc | .opened => .co := by
  have hforced : s.switchClass r pr id = p.target.forced := by
    unfold State.switchClass
    rw [hp]
    exact if_pos hid
  rw [hforced]
  cases p.target <;> rfl

theorem switchClass_base (h : ∀ p, pr = some p → p.switch ≠ id) : s.switchClass r pr id = State.switchClass.base s r id := by
  unfold State.switchClass
  cases hpr : pr with
  | none => rfl
  | some p => exact if_neg (h p hpr)

theorem switchClass_entry (he : s.entry? id = some e) (h : ∀ p, pr = some p → p.switch ≠ id) :
    s.switchClass r pr id =
      if s.quality e = .good ∧ e.suspect = false ∧ e.value = some .closed then .cc
      else if s.quality e = .good ∧ e.suspect = false ∧ e.value = some .opened then .co
      else match r with | .plain => .un | .closedFavourable => .cc | .openFavourable => .co := by
  rw [switchClass_base h, State.switchClass.base, he]
  simp only [plainSwitchClass]
  split
  · cases r <;> rfl
  · split <;> cases r <;> rfl

theorem voltageClass_entry (he : s.entry? id = some e) :
    s.voltageClass r id =
      if s.quality e = .good ∧ e.value = some .present then .vp
      else if s.quality e = .good ∧ e.value = some .absent then .va
      else if r = .plain then .vu else .va := by
  rw [State.voltageClass, he]
  simp only [plainVoltageClass]
  split
  · cases r <;> rfl
  · split <;> cases r <;> rfl

end

/-- Settles O23: the classes of an entry, the sets and searches as chains, and the facts drawn from them. -/
theorem certainIsPossibleAndFavourableIsSure : Obligations.CertainIsPossibleAndFavourableIsSure := by
  intro s r pr
  refine ⟨fun n => liveCertain_possible s r pr, fun n => earthCertain_possible s r pr, fun hr n => facts_sure s pr n hr,
    fun id e he => ⟨fun p => switchClass_forced, switchClass_entry he, voltageClass_entry he⟩, fun n => ?_, fun id x y => ?_,
    fun p n => mem_region s r pr p n⟩
  · exact ⟨mem_liveCertain s r pr n, mem_livePossible s r pr n, mem_earthCertain s r pr n, mem_earthPossible s r pr n,
      live_eq_yes_iff s r pr n, live_eq_no_iff s r pr n, earthed_eq_yes_iff s r pr n, earthed_eq_no_iff s r pr n⟩
  · exact ⟨fun n => mem_island s r pr id x n, isolated_iff s r pr id x, bridged_iff s r pr id x y⟩

end Sys2Proof.Machine
end


section
/-! PROOFS. The interlock evaluator (chapter 5): the checks in order, and what a PERMIT and each refusal say. -/
namespace Sys2Proof.Machine

/-! ### Conditions (R80) -/

section
variable {s : State} {c : Condition}

/-- A condition fails exactly where it is not met. -/
theorem conditionFails_eq_none : s.conditionFails c = none ↔ s.meets c := by
  refine ⟨fun h => ?_, conditionFails_of_meets s c⟩
  unfold State.conditionFails at h
  split at h
  · cases h
  next e he =>
    split at h
    · cases h
    next hgood =>
      split at h
      · cases h
      next hmark =>
        split at h
        next hvalue =>
          refine ⟨e, he, not_not.1 hgood, hvalue, fun hk => ?_⟩
          simpa [hk] using hmark
        next => cases h

/-- A condition that fails is CERTAIN exactly where it was judged on a sure value. -/
theorem conditionFails_certain {q : Qualifier} (h : s.conditionFails c = some q) : q = .certain ↔ s.judgesSurely c := by
  have hunique {e : PointEntry} (he : s.entry? c.point = some e) : s.judgesSurely c ↔
      s.quality e = .good ∧ (e.kind.isSwitch = true → e.suspect = false) := by
    constructor
    · rintro ⟨e', he', hsure⟩
      obtain rfl : e = e' := Option.some.inj (he.symm.trans he')
      exact hsure
    · exact fun hsure => ⟨e, he, hsure⟩
  unfold State.conditionFails at h
  split at h
  next hnone =>
    cases h
    exact iff_of_false (nomatch ·) fun ⟨e, he, _⟩ => by rw [hnone] at he; cases he
  next e he =>
    rw [hunique he]
    split at h
    next hgood => cases h; exact iff_of_false (nomatch ·) fun hsure => hgood hsure.1
    next hgood =>
      split at h
      next hmark =>
        cases h
        obtain ⟨hk, hsus⟩ := Bool.and_eq_true_iff.1 hmark
        exact iff_of_false (nomatch ·) fun hsure => Bool.false_ne_true ((hsure.2 hk).symm.trans hsus)
      next hmark =>
        split at h
        · cases h
        · cases h
          refine iff_of_true rfl ⟨not_not.1 hgood, fun hk => ?_⟩
          simpa [hk] using hmark

end

/-- The first condition that is not met refuses, with its place in the list. -/
theorem checkConditions_first {s : State} {l : List Condition} {i : Nat} {c : Condition} (hc : l[i]? = some c)
    (hmet : ∀ (j : Nat) (b : Condition), j < i → l[j]? = some b → s.meets b) (hnot : ¬ s.meets c) (k : Nat) :
    ∃ q, s.checkConditions k l = some (.refuse ⟨.extraCondition, k + i, c.point, 0, q⟩) ∧ (q = .certain ↔ s.judgesSurely c) := by
  induction l generalizing i k with
  | nil => cases hc
  | cons x rest ih =>
    cases i with
    | zero =>
      obtain rfl : x = c := Option.some.inj hc
      obtain ⟨q, hq⟩ := Option.ne_none_iff_exists'.1 (mt conditionFails_eq_none.1 hnot)
      refine ⟨q, ?_, conditionFails_certain hq⟩
      rw [State.checkConditions, hq]
      rfl
    | succ i =>
      have hx : s.conditionFails x = none := conditionFails_eq_none.2 (hmet 0 x (Nat.succ_pos i) rfl)
      obtain ⟨q, hq, hsure⟩ := ih hc (fun j b hj hb => hmet (j + 1) b (Nat.succ_lt_succ hj) hb) (k + 1)
      refine ⟨q, ?_, hsure⟩
      rw [State.checkConditions, hx]
      simpa [Nat.add_assoc, Nat.add_comm 1 i] using hq

/-- What check 3 refuses, it refuses as an extra condition. -/
theorem reason_of_checkConditions {s : State} {l : List Condition} {k : Nat} {v : Verdict}
    (h : s.checkConditions k l = some v) : ∃ r, v = .refuse r ∧ r.reason = .extraCondition := by
  induction l generalizing k with
  | nil => cases h
  | cons c rest ih =>
    rw [State.checkConditions] at h
    split at h
    · cases h
      exact ⟨_, rfl, rfl⟩
    · exact ih h

/-! ### The checks in order (R77) -/

/-- The conditions of a switch's direction; none if it has no settings. -/
def State.conditionsFor (s : State) (id : Nat) (t : Target) : List Condition :=
  match s.ctl.model.local? id with
  | some d => d.conditions t
  | none => []

theorem State.conditionsFor_of {s : State} {id : Nat} {d : LocalDef} (hd : s.ctl.model.local? id = some d) (t : Target) :
    s.conditionsFor id t = d.conditions t := by
  rw [State.conditionsFor, hd]

/-- The conditions decide, then the kind rule, then the clash check. -/
theorem State.laterChecks_eq (s : State) (p : PointDef) (t : Target) :
    s.laterChecks p t = (s.checkConditions 1 (s.conditionsFor p.id t)).getD
      (((s.checkKind p t).or (s.checkClash p t)).getD (.permit false)) := by
  have hmatch : s.laterChecks p t = match s.checkConditions 1 (s.conditionsFor p.id t) with
    | some v => v
    | none => match s.checkKind p t with
      | some v => v
      | none => match s.checkClash p t with
        | some v => v
        | none => .permit false := rfl
  rw [hmatch]
  cases s.checkConditions 1 (s.conditionsFor p.id t) with
  | some v => rfl
  | none =>
    cases s.checkKind p t with
    | some v => rfl
    | none => cases s.checkClash p t <;> rfl

section
variable {s : State} {id : Nat} {t : Target} {e : PointEntry} {p : PointDef} (he : s.entry? id = some e)
  (hp : s.ctl.model.point? id = some p)
include he hp

theorem evaluate_suspect (hs : e.suspect = true) : s.evaluate id t = .refuse ⟨.switchSuspect, 0, 0, 0, .certain⟩ := by
  rw [State.evaluate, he, hp]
  exact if_pos hs

theorem evaluate_moving (hs : e.suspect = false) (hv : e.value = some .travel) :
    s.evaluate id t = .refuse ⟨.switchMoving, 0, 0, 0, .certain⟩ := by
  rw [State.evaluate, he, hp]
  simp only [hs, hv, if_true, Bool.false_eq_true, if_false]
  rfl

theorem evaluate_atTarget (hs : e.suspect = false) (hv : e.value = some t.value) : s.evaluate id t = .permit true := by
  have htravel : t.value ≠ .travel := by cases t <;> exact (nomatch ·)
  rw [State.evaluate, he, hp]
  simp only [hs, hv, if_true, Bool.false_eq_true, if_false]
  exact if_neg fun h => htravel (Option.some.inj h)

theorem evaluate_moves (hs : e.suspect = false) (hv : e.value ≠ some .travel) (ht : e.value ≠ some t.value) :
    s.evaluate id t = s.laterChecks p t := by
  rw [State.evaluate, he, hp]
  simp only [hs, hv, ht, Bool.false_eq_true, if_false]

end

/-! ### CHECK (R88) -/

theorem exec_check {s : State} (hs : s.free) (hm : s.ctl.mode = .quiet ∨ s.ctl.mode = .run) (tag : Byte)
    (point target : Nat) : exec (.check tag point target) s =
      .next ((s.holding tag (.check point target)).takeCheck ⟨tag, .check point target⟩ point target) :=
  exec_commandOf_read hs hm tag (r := .check point target) trivial rfl

theorem targetOf_eq_none {target : Nat} (h1 : target ≠ 1) (h2 : target ≠ 2) : targetOf target = none := by
  unfold targetOf
  split
  · exact absurd rfl h1
  · exact absurd rfl h2
  · rfl

/-- A step's form: a local switch, and one of the two targets. -/
theorem State.stepOf_eq_none {s : State} {point target : Nat} {p : PointDef} (hp : s.ctl.model.point? point = some p)
    (h : p.kind.isSwitch = false ∨ p.owner ≠ s.unit ∨ (target ≠ 1 ∧ target ≠ 2)) : s.stepOf ⟨point, target⟩ = none := by
  rw [State.stepOf]
  by_cases hl : s.ctl.model.isLocalSwitch point = true
  · obtain ⟨hk, ho⟩ := (YardModel.isLocalSwitch_of_point? hp).1 hl
    rcases h with h | h | ⟨h1, h2⟩
    · rw [hk] at h; cases h
    · exact absurd ho h
    · rw [if_pos hl, targetOf_eq_none h1 h2]; rfl
  · exact if_neg hl

theorem State.stepOf_target {s : State} {point : Nat} {p : PointDef} (hp : s.ctl.model.point? point = some p)
    (hk : p.kind.isSwitch = true) (ho : p.owner = s.unit) {target : Nat} {t : Target} (ht : targetOf target = some t) :
    s.stepOf ⟨point, target⟩ = some ⟨point, t⟩ := by
  rw [State.stepOf, if_pos ((YardModel.isLocalSwitch_of_point? hp).2 ⟨hk, ho⟩), ht]
  rfl

section
variable {s : State} (hs : s.free) (hm : s.ctl.mode = .quiet ∨ s.ctl.mode = .run) (tag : Byte) {point target : Nat}
include hs hm

theorem exec_check_noPoint (hp : s.ctl.model.point? point = none) :
    exec (.check tag point target) s = .next (s.replied 0x13 tag .noSuchPoint .none) := by
  have hp' : ((s.holding tag (.check point target)).ctl.model.point? point).isNone = true :=
    Option.isNone_iff_eq_none.2 hp
  rw [exec_check hs hm, State.takeCheck, if_pos hp']
  rfl

theorem exec_check_form {p : PointDef} (hp : s.ctl.model.point? point = some p) (hstep : s.stepOf ⟨point, target⟩ = none) :
    exec (.check tag point target) s = .next (s.replied 0x13 tag .badRequest .none) := by
  have hp' : ¬ ((s.holding tag (.check point target)).ctl.model.point? point).isNone = true := by
    rw [show (s.holding tag (.check point target)).ctl.model.point? point = some p from hp]; exact (nomatch ·)
  have hstep' : (s.holding tag (.check point target)).stepOf ⟨point, target⟩ = none := hstep
  rw [exec_check hs hm, State.takeCheck, if_neg hp', hstep']
  rfl

theorem exec_check_verdict {p : PointDef} (hp : s.ctl.model.point? point = some p) {st : Step}
    (hstep : s.stepOf ⟨point, target⟩ = some st) :
    exec (.check tag point target) s =
      .next (s.replied 0x13 tag .ok (.verdict (s.evaluate st.switch st.target))) := by
  have hp' : ¬ ((s.holding tag (.check point target)).ctl.model.point? point).isNone = true := by
    rw [show (s.holding tag (.check point target)).ctl.model.point? point = some p from hp]; exact (nomatch ·)
  have hstep' : (s.holding tag (.check point target)).stepOf ⟨point, target⟩ = some st := hstep
  have heval : (s.holding tag (.check point target)).evaluate st.switch st.target = s.evaluate st.switch st.target :=
    State.evaluate_congr (s := s) (t := s.holding tag (.check point target)) rfl rfl rfl _ _
  rw [exec_check hs hm, State.takeCheck, if_neg hp', hstep']
  simp only [heval]
  rfl

end

/-- Settles O24: CHECK's three replies, and the checks of an evaluation up to the conditions. -/
theorem checksStopAtTheFirstFailure : Obligations.ChecksStopAtTheFirstFailure := by
  refine ⟨fun s tag point target hs hm => ⟨exec_check_noPoint hs hm tag, fun p hp => ⟨fun hbad => ?_, fun hk ho =>
    ⟨?_, ?_⟩⟩⟩, fun s id t e p he hp => ⟨evaluate_suspect he hp, evaluate_moving he hp, evaluate_atTarget he hp,
    fun hs hv ht d i c hd hc hmet hnot => ?_⟩⟩
  · exact exec_check_form hs hm tag hp (State.stepOf_eq_none hp hbad)
  · rintro rfl
    exact exec_check_verdict hs hm tag hp (State.stepOf_target hp hk ho (t := .opened) rfl)
  · rintro rfl
    exact exec_check_verdict hs hm tag hp (State.stepOf_target hp hk ho (t := .closed) rfl)
  · have hc' : (d.conditions t)[i]? = some c := by cases t <;> exact hc
    have hmet' (j : Nat) (b : Condition) (hj : j < i) (hb : (d.conditions t)[j]? = some b) : s.meets b :=
      hmet j b hj (by cases t <;> exact hb)
    obtain ⟨q, hq, hsure⟩ := checkConditions_first hc' hmet' hnot 1
    rw [← State.conditionsFor_of hd] at hq
    refine ⟨q, ?_, hsure⟩
    rw [evaluate_moves he hp hs hv ht, State.laterChecks_eq, hq, Option.getD_some, Nat.add_comm]

/-! ### The kind rule (R81 to R83) -/

/-- The plain colouring joins the ends of the switch apart from it, or isolates one of them (R70, R71). -/
def State.joinedApart (s : State) (p : PointDef) : Prop :=
  (s.colouring .plain none).bridged p.id p.nodeA p.nodeB = true ∨ (s.colouring .plain none).isolated p.id p.nodeA = true ∨
    (s.colouring .plain none).isolated p.id p.nodeB = true

/-- The refusal of a disconnector, with the answer of the favourable readings (R81, R86). -/
def State.notIsolated (s : State) (p : PointDef) : RefusalRecord :=
  ⟨.notIsolated, 0, 0, 0, qualify ((s.colouring .closedFavourable none).bridged p.id p.nodeA p.nodeB ||
    (s.colouring .openFavourable none).anEndIsolated p)⟩

/-- The refusal of an earthing switch, with the answer of the favourable reading (R82, R87). -/
def State.nodeNotDead (s : State) (p : PointDef) : RefusalRecord :=
  ⟨.nodeNotDead, 0, 0, p.nodeA, qualify ((s.colouring .openFavourable none).live p.nodeA == .no)⟩

theorem qualify_unsure (b : Bool) : qualify b = .unsure ↔ b = true := by cases b <;> simp [qualify]

section
variable {s : State} {p : PointDef} {t : Target}

theorem joinedApart_iff : (((s.colouring .plain none).bridged p.id p.nodeA p.nodeB ||
    (s.colouring .plain none).anEndIsolated p) = true) ↔ s.joinedApart p := by
  simp [State.joinedApart, Colouring.anEndIsolated]

/-- A switch whose kind's rule is kept passes check 4. -/
theorem checkKind_passes (hd : p.kind = .disconnector → s.joinedApart p)
    (he : p.kind = .earthing → t = .closed → (s.colouring .plain none).live p.nodeA = .no) : s.checkKind p t = none := by
  unfold State.checkKind
  split
  next hk => rw [State.checkDisconnector]; exact if_pos (joinedApart_iff.2 (hd hk))
  next hk => rw [State.checkEarthing]; exact if_pos (he hk rfl)
  all_goals rfl

theorem checkKind_disconnector (hk : p.kind = .disconnector) (h : ¬ s.joinedApart p) :
    s.checkKind p t = some (.refuse (s.notIsolated p)) := by
  have hrule : s.checkKind p t = s.checkDisconnector p := by
    unfold State.checkKind
    rw [hk]
  rw [hrule]
  exact if_neg fun hj => h (joinedApart_iff.1 hj)

theorem checkKind_earthing (hk : p.kind = .earthing) (ht : t = .closed)
    (h : (s.colouring .plain none).live p.nodeA ≠ .no) : s.checkKind p t = some (.refuse (s.nodeNotDead p)) := by
  have hrule : s.checkKind p .closed = s.checkEarthing p := by
    unfold State.checkKind
    rw [hk]
  rw [ht, hrule]
  exact if_neg h

/-- Check 4 passes, or it refuses by the kind's rule. -/
theorem checkKind_cases (s : State) (p : PointDef) (t : Target) :
    (s.checkKind p t = none ∧ (p.kind = .disconnector → s.joinedApart p) ∧
      (p.kind = .earthing → t = .closed → (s.colouring .plain none).live p.nodeA = .no)) ∨
    (s.checkKind p t = some (.refuse (s.notIsolated p)) ∧ p.kind = .disconnector ∧ ¬ s.joinedApart p) ∨
    (s.checkKind p t = some (.refuse (s.nodeNotDead p)) ∧ p.kind = .earthing ∧ t = .closed ∧
      (s.colouring .plain none).live p.nodeA ≠ .no) := by
  by_cases hd : p.kind = .disconnector → s.joinedApart p
  · by_cases he : p.kind = .earthing → t = .closed → (s.colouring .plain none).live p.nodeA = .no
    · exact .inl ⟨checkKind_passes hd he, hd, he⟩
    · push Not at he
      obtain ⟨hk, ht, hlive⟩ := he
      exact .inr (.inr ⟨checkKind_earthing hk ht hlive, hk, ht, hlive⟩)
  · push Not at hd
    obtain ⟨hk, hj⟩ := hd
    exact .inr (.inl ⟨checkKind_disconnector hk hj, hk, hj⟩)

/-! ### The clash check (R84) -/

/-- The lowest of a list is in it, and none is lower. -/
theorem lowest_eq_some {l : List Nat} {n : Nat} (h : lowest l = some n) : n ∈ l ∧ ∀ m ∈ l, n ≤ m := by
  have hfold (l : List Nat) : ∀ a : Nat, ∀ n,
      l.foldl (fun acc n => match acc with | none => some n | some m => some (min m n)) (some a) = some n →
        (n = a ∨ n ∈ l) ∧ n ≤ a ∧ ∀ m ∈ l, n ≤ m := by
    induction l with
    | nil => rintro a n ⟨⟩; exact ⟨.inl rfl, Nat.le_refl _, nofun⟩
    | cons x rest ih =>
      intro a n hn
      obtain ⟨hmem, hle, hall⟩ := ih (min a x) n hn
      simp only [List.mem_cons, forall_eq_or_imp]
      refine ⟨?_, by omega, by omega, hall⟩
      rcases hmem with hmem | hmem
      · rcases Nat.le_total a x with hax | hxa
        · exact .inl (by omega)
        · exact .inr (.inl (by omega))
      · exact .inr (.inr hmem)
  cases l with
  | nil => cases h
  | cons x rest =>
    obtain ⟨hmem, hle, hall⟩ := hfold rest x n h
    exact ⟨List.mem_cons.2 hmem, fun m hm => by rcases List.mem_cons.1 hm with rfl | hm; exacts [hle, hall m hm]⟩

/-- A node of the prospect's region could be live and earthed at once (R84). -/
def State.inDanger (s : State) (p : PointDef) (r : Reading) (n : Nat) : Prop :=
  n ∈ (s.colouring r (some ⟨p.id, .closed⟩)).region p ∧ (s.colouring r (some ⟨p.id, .closed⟩)).live n ≠ .no ∧
    (s.colouring r (some ⟨p.id, .closed⟩)).earthed n ≠ .no

theorem mem_clashes {r : Reading} {n : Nat} : n ∈ ((s.colouring r (some ⟨p.id, .closed⟩)).region p).filter
    (s.colouring r (some ⟨p.id, .closed⟩)).offends ↔ s.inDanger p r n := by
  rw [List.mem_filter, offends_iff]
  rfl

theorem clash_eq_none {r : Reading} :
    (s.colouring r (some ⟨p.id, .closed⟩)).clash p = none ↔ ∀ n, ¬ s.inDanger p r n := by
  rw [Colouring.clash, lowest_eq_none, List.eq_nil_iff_forall_not_mem]
  exact forall_congr' fun n => not_congr mem_clashes

theorem clash_eq_some {r : Reading} {n : Nat} (h : (s.colouring r (some ⟨p.id, .closed⟩)).clash p = some n) :
    s.inDanger p r n ∧ ∀ m, s.inDanger p r m → n ≤ m := by
  obtain ⟨hmem, hall⟩ := lowest_eq_some h
  exact ⟨mem_clashes.1 hmem, fun m hm => hall m (mem_clashes.2 hm)⟩

/-- The refusal of a close for a clash, with the answer of the favourable reading (R84, R87). -/
def State.clashRisk (s : State) (p : PointDef) (n : Nat) : RefusalRecord :=
  ⟨.clashRisk, 0, 0, n, qualify ((s.colouring .openFavourable (some ⟨p.id, .closed⟩)).clash p).isNone⟩

/-- Check 5 passes, or it refuses with the lowest node in danger. -/
theorem checkClash_cases (s : State) (p : PointDef) (t : Target) :
    (s.checkClash p t = none ∧ (t = .closed → ∀ n, ¬ s.inDanger p .plain n)) ∨
    ∃ n, s.checkClash p t = some (.refuse (s.clashRisk p n)) ∧ t = .closed ∧ s.inDanger p .plain n ∧
      ∀ m, s.inDanger p .plain m → n ≤ m := by
  cases t with
  | opened => exact .inl ⟨rfl, (nomatch ·)⟩
  | closed =>
    cases hc : (s.colouring .plain (some ⟨p.id, .closed⟩)).clash p with
    | none =>
      refine .inl ⟨?_, fun _ => clash_eq_none.1 hc⟩
      simp only [State.checkClash, hc]
    | some n =>
      obtain ⟨hdanger, hlow⟩ := clash_eq_some hc
      refine .inr ⟨n, ?_, rfl, hdanger, hlow⟩
      simp only [State.checkClash, hc]
      rfl

end

/-! ### Evaluations that get past the first checks -/

/-- Checks 4 and 5 in order, and the PERMIT that is left (R76, R77). -/
def State.electricalChecks (s : State) (p : PointDef) (t : Target) : Verdict :=
  ((s.checkKind p t).or (s.checkClash p t)).getD (.permit false)

/-- An evaluation that does not stop at the first checks or the conditions is the kind rule's, then the clash check's. -/
theorem evaluate_cases (s : State) {id : Nat} (t : Target) {p : PointDef} (hp : s.ctl.model.point? id = some p) :
    s.evaluate id t = s.electricalChecks p t ∨ s.evaluate id t = .permit true ∨
      ∃ r, s.evaluate id t = .refuse r ∧
        (r.reason = .switchSuspect ∨ r.reason = .switchMoving ∨ r.reason = .extraCondition) := by
  cases he : s.entry? id with
  | none =>
    refine .inr (.inr ⟨⟨.switchSuspect, 0, 0, 0, .certain⟩, ?_, .inl rfl⟩)
    rw [State.evaluate, he]
    rfl
  | some e =>
    cases hs : e.suspect with
    | true => exact .inr (.inr ⟨_, evaluate_suspect he hp hs, .inl rfl⟩)
    | false =>
      by_cases hv : e.value = some .travel
      · exact .inr (.inr ⟨_, evaluate_moving he hp hs hv, .inr (.inl rfl)⟩)
      by_cases ht : e.value = some t.value
      · exact .inr (.inl (evaluate_atTarget he hp hs ht))
      rw [evaluate_moves he hp hs hv ht, State.laterChecks_eq]
      cases hc : s.checkConditions 1 (s.conditionsFor p.id t) with
      | none => exact .inl rfl
      | some v =>
        obtain ⟨r, rfl, hr⟩ := reason_of_checkConditions hc
        exact .inr (.inr ⟨r, rfl, .inr (.inr hr)⟩)

/-- An evaluation that passes the first checks and the conditions. -/
theorem evaluate_past {s : State} {id : Nat} {t : Target} {e : PointEntry} {p : PointDef} (he : s.entry? id = some e)
    (hp : s.ctl.model.point? id = some p) (hs : e.suspect = false) (hv : e.value ≠ some .travel)
    (ht : e.value ≠ some t.value) (hmet : ∀ c ∈ s.conditionsFor p.id t, s.meets c) :
    s.evaluate id t = s.electricalChecks p t := by
  rw [evaluate_moves he hp hs hv ht, State.laterChecks_eq, checkConditions_of_meets s _ hmet]
  rfl

/-- The electrical checks, by the four ways they end. -/
theorem electricalChecks_cases (s : State) (p : PointDef) (t : Target) :
    (p.kind = .disconnector ∧ ¬ s.joinedApart p ∧ s.electricalChecks p t = .refuse (s.notIsolated p)) ∨
    (p.kind = .earthing ∧ t = .closed ∧ (s.colouring .plain none).live p.nodeA ≠ .no ∧
      s.electricalChecks p t = .refuse (s.nodeNotDead p)) ∨
    ((p.kind = .disconnector → s.joinedApart p) ∧
      (p.kind = .earthing → t = .closed → (s.colouring .plain none).live p.nodeA = .no) ∧
      ((∃ n, t = .closed ∧ s.inDanger p .plain n ∧ (∀ m, s.inDanger p .plain m → n ≤ m) ∧
          s.electricalChecks p t = .refuse (s.clashRisk p n)) ∨
        (t = .closed → ∀ n, ¬ s.inDanger p .plain n) ∧ s.electricalChecks p t = .permit false)) := by
  unfold State.electricalChecks
  rcases checkKind_cases s p t with ⟨hpass, hd, he⟩ | ⟨href, hk, hj⟩ | ⟨href, hk, ht, hlive⟩
  · refine .inr (.inr ⟨hd, he, ?_⟩)
    rcases checkClash_cases s p t with ⟨hclash, hsafe⟩ | ⟨n, hclash, ht, hdanger, hlow⟩
    · exact .inr ⟨hsafe, by rw [hpass, hclash]; rfl⟩
    · exact .inl ⟨n, ht, hdanger, hlow, by rw [hpass, hclash]; rfl⟩
  · exact .inl ⟨hk, hj, by rw [href]; rfl⟩
  · exact .inr (.inl ⟨hk, ht, hlive, by rw [href]; rfl⟩)

theorem not_joinedApart {s : State} {p : PointDef} (h : ¬ s.joinedApart p) :
    (s.colouring .plain none).bridged p.id p.nodeA p.nodeB = false ∧ (s.colouring .plain none).isolated p.id p.nodeA = false ∧
      (s.colouring .plain none).isolated p.id p.nodeB = false := by
  simpa [State.joinedApart] using h

theorem notIsolated_unsure (s : State) (p : PointDef) : (s.notIsolated p).qualifier = .unsure ↔
    (s.colouring .closedFavourable none).bridged p.id p.nodeA p.nodeB = true ∨
      (s.colouring .openFavourable none).isolated p.id p.nodeA = true ∨
      (s.colouring .openFavourable none).isolated p.id p.nodeB = true := by
  simp [State.notIsolated, qualify_unsure, Colouring.anEndIsolated]

theorem nodeNotDead_unsure (s : State) (p : PointDef) :
    (s.nodeNotDead p).qualifier = .unsure ↔ (s.colouring .openFavourable none).live p.nodeA = .no := by
  simp [State.nodeNotDead, qualify_unsure]

theorem clashRisk_unsure (s : State) (p : PointDef) (n : Nat) :
    (s.clashRisk p n).qualifier = .unsure ↔ ∀ m, ¬ s.inDanger p .openFavourable m := by
  rw [State.clashRisk, qualify_unsure, Option.isNone_iff_eq_none, clash_eq_none]

/-- Settles O25: the four ways in which the electrical checks end, read from the verdict and towards it. -/
theorem electricalChecksDecide : Obligations.ElectricalChecksDecide := by
  intro s id t p hp plain pr inDanger
  obtain rfl : p.id = id := (mem_of_find_key hp).2
  refine ⟨fun hpermit => ?_, fun r hrefuse => ?_, fun e he hs hv ht hmet => ?_⟩
  · rcases evaluate_cases s t hp with hlater | htrue | ⟨r, href, -⟩
    · rw [hlater] at hpermit
      rcases electricalChecks_cases s p t with ⟨-, -, h⟩ | ⟨-, -, -, h⟩ | ⟨hd, hearth, ⟨n, -, -, -, h⟩ | ⟨hsafe, -⟩⟩
      · rw [hpermit] at h; cases h
      · rw [hpermit] at h; cases h
      · rw [hpermit] at h; cases h
      · exact ⟨hd, hearth, hsafe⟩
    · rw [htrue] at hpermit; cases hpermit
    · rw [href] at hpermit; cases hpermit
  · rcases evaluate_cases s t hp with hlater | htrue | ⟨r', href, hreason⟩
    · rw [hlater] at hrefuse
      rcases electricalChecks_cases s p t with ⟨hk, hj, h⟩ | ⟨hk, ht, hlive, h⟩ | ⟨-, -, ⟨n, ht, hdanger, hlow, h⟩ | ⟨-, h⟩⟩
      · obtain rfl := Verdict.refuse.inj (hrefuse.symm.trans h)
        obtain ⟨hb, ha, hb'⟩ := not_joinedApart hj
        exact ⟨fun _ => ⟨hk, hb, ha, hb', notIsolated_unsure s p⟩, (nomatch ·), (nomatch ·)⟩
      · obtain rfl := Verdict.refuse.inj (hrefuse.symm.trans h)
        exact ⟨(nomatch ·), fun _ => ⟨hk, ht, rfl, hlive, nodeNotDead_unsure s p⟩, (nomatch ·)⟩
      · obtain rfl := Verdict.refuse.inj (hrefuse.symm.trans h)
        exact ⟨(nomatch ·), (nomatch ·), fun _ => ⟨ht, hdanger, hlow, clashRisk_unsure s p n⟩⟩
      · rw [hrefuse] at h; cases h
    · rw [htrue] at hrefuse; cases hrefuse
    · obtain rfl := Verdict.refuse.inj (hrefuse.symm.trans href)
      refine ⟨fun h => ?_, fun h => ?_, fun h => ?_⟩ <;> rw [h] at hreason <;> simp at hreason
  · intro joined
    have hmet' : ∀ c ∈ s.conditionsFor p.id t, s.meets c := by
      cases hd : s.ctl.model.local? p.id with
      | none => rw [State.conditionsFor, hd]; exact nofun
      | some d =>
        rw [State.conditionsFor_of hd]
        intro c hc
        exact hmet d hd c (by cases t <;> exact hc)
    have heval := evaluate_past he hp hs hv ht hmet'
    rcases electricalChecks_cases s p t with ⟨hk, hj, h⟩ | ⟨hk, hc, hlive, h⟩ | ⟨hd, hearth, hclash⟩
    · refine ⟨fun _ _ => ⟨_, heval.trans h, rfl⟩, fun hk' => ?_, fun hd => absurd (hd hk) hj⟩
      rw [hk] at hk'; cases hk'
    · refine ⟨fun hk' => ?_, fun _ _ _ => ⟨_, heval.trans h, rfl⟩, fun _ hearth => absurd (hearth hk hc) hlive⟩
      rw [hk] at hk'; cases hk'
    · refine ⟨fun hk hj => absurd (hd hk) hj, fun hk hc hlive => absurd (hearth hk hc) hlive, fun _ _ => ⟨fun hc hex => ?_,
        fun hsafe => ?_⟩⟩
      · rcases hclash with ⟨n, -, -, -, h⟩ | ⟨hsafe, -⟩
        · exact ⟨_, heval.trans h, rfl⟩
        · obtain ⟨n, hn⟩ := hex
          exact absurd hn (hsafe hc n)
      · rcases hclash with ⟨n, hc, hdanger, -, -⟩ | ⟨-, h⟩
        · exact absurd hdanger (hsafe hc n)
        · exact heval.trans h

end Sys2Proof.Machine
end


section
/-! PROOFS. The program sequencer (chapter 9): take-up, deadlines, the guard and VERIFY, and what follows a drive. -/
namespace Sys2Proof.Machine

/-! ### Programs that end, and the next taken up (R148, R162) -/

theorem stopEnd_eq (c : StopCause) (step : Nat) : stopEnd c step = stoppedBy c step := by cases c <;> rfl

theorem takeUp_queue {s : State} {l : List Program} (h : s.seq.queue = l) : takeUp l s = s.takeUpNext := by
  rw [State.takeUpNext, h]

theorem State.takeUpNext_of_empty {s : State} (h : s.seq.queue = []) : s.takeUpNext = s := by
  rw [State.takeUpNext, h]
  rfl

/-- The head of the queue is taken up, and then whatever is left while none is active. -/
theorem State.takeUpNext_cons {s : State} {q : Program} {rest : List Program} (ha : s.seq.active = none)
    (hq : s.seq.queue = q :: rest) : s.takeUpNext = takeUp rest (s.takeUpOne q rest) := by
  rw [State.takeUpNext, hq, takeUp, ha]
  rfl

/-! ### GUARD entered (R150) -/

theorem State.reached_now (s : State) : s.reached s.now = true := by
  rw [State.reached, atOrAfter_iff, BitVec.sub_self]
  decide

/-- A step that enters GUARD is tested at once. -/
theorem State.enterGuard_eq {s : State} {p : Program} (ha : s.seq.active = some p) :
    s.enterGuard = (s.atGuard p).testGuard := by
  rw [State.enterGuard, State.setPhase_eq ha]
  rfl

theorem exec_guardReleaseTime {s : State} (hr : s.running = true) : exec .guardReleaseTime s = .next s.guardRetest := by
  show execGuardReleaseTime s = _
  rw [execGuardReleaseTime, if_pos hr]

/-- The guard's test at its release time. -/
theorem State.guardRetest_reached {s : State} {p : Program} {release deadline : Time} (ha : s.seq.active = some p)
    (hp : p.phase = .guard release deadline) (h : s.reached release = true) : s.guardRetest = s.testGuard.takeUpNext := by
  simp only [State.guardRetest, ha, hp, h, if_true]

theorem State.guardRetest_before {s : State} {p : Program} {release deadline : Time} (ha : s.seq.active = some p)
    (hp : p.phase = .guard release deadline) (h : s.reached release = false) : s.guardRetest = s := by
  simp only [State.guardRetest, ha, hp, h, Bool.false_eq_true, if_false]

/-- A step that has just entered GUARD is at its release time. -/
theorem exec_guardReleaseTime_atGuard {s : State} (hr : s.running = true) (p : Program) :
    exec .guardReleaseTime (s.atGuard p) = .next (s.atGuard p).testGuard.takeUpNext := by
  rw [exec_guardReleaseTime (s := s.atGuard p) hr]
  exact congrArg _ (State.guardRetest_reached rfl rfl s.reached_now)

/-- The guard's test and the steps after it leave the queue alone. -/
@[simp] theorem queue_runSteps (l : List Step) (s : State) : (runSteps l s).seq.queue = s.seq.queue := by
  induction l generalizing s with
  | nil => rfl
  | cons st rest ih =>
    simp only [runSteps]
    split
    · simp [State.mapActive]
    · split
      · simp [State.beginDrive, State.mapActive]
      · simp
      · split
        · simp
        · split
          · simp [State.mapActive]
          · rw [ih]
            simp [State.setPhase, State.mapActive]

/-! ### Take-up (R148, R149) -/

theorem State.claimOrder_cons (s : State) {zones zs : List Nat} {z : Nat} (h : zones = z :: zs) :
    s.claimOrder zones = (s.setJob (some zones)).asks z := by
  rw [← State.askZone_eq, h]
  rfl

section
variable {s : State} {q : Program} {rest : List Program} {st : Step} {more : List Step}

/-- The state with the head of the queue in the active place, at step 1. -/
def State.withHead (s : State) (q : Program) (rest : List Program) : State :=
  { s with seq := { s.seq with queue := rest, active := some { q with stepIndex := 1 } } }

theorem State.takeUpOne_cons (hs : q.steps = st :: more) : s.takeUpOne q rest =
    match (s.withHead q rest).evaluate st.switch st.target with
    | .refuse r => (s.withHead q rest).endActive (refusedEnd r 1)
    | .permit _ => (s.withHead q rest).startClaiming q.zones := by
  have hmatch : s.takeUpOne q rest = match q.steps with
      | [] => (s.withHead q rest).endActive (endOf .done none 0)
      | st :: _ => match (s.withHead q rest).evaluate st.switch st.target with
        | .refuse r => (s.withHead q rest).endActive (refusedEnd r 1)
        | .permit _ => (s.withHead q rest).startClaiming q.zones := rfl
  rw [hmatch, hs]

theorem State.takeUpOne_refused (hs : q.steps = st :: more) {r : RefusalRecord}
    (hv : (s.withHead q rest).evaluate st.switch st.target = .refuse r) :
    s.takeUpOne q rest = (s.withHead q rest).endActive (refusedBy r 1) := by
  rw [State.takeUpOne_cons hs, hv]
  rfl

theorem State.takeUpOne_permitted (hs : q.steps = st :: more) {b : Bool}
    (hv : (s.withHead q rest).evaluate st.switch st.target = .permit b) :
    s.takeUpOne q rest = (s.withHead q rest).startClaiming q.zones := by
  rw [State.takeUpOne_cons hs, hv]

end

/-- Settles O28: the head refused, sent to GUARD, or sent to CLAIMING. -/
theorem nextProgramIsTakenUp : Obligations.NextProgramIsTakenUp := by
  intro s
  refine ⟨fun h => ?_, fun q rest st more ha hq hs => ?_⟩
  · rcases h with h | h
    · obtain ⟨p, hp⟩ := Option.isSome_iff_exists.1 h
      exact State.takeUpNext_of_active hp
    · exact State.takeUpNext_of_empty h
  intro p v
  refine ⟨fun r hv => ?_, fun b hv hz hr => ?_, fun b z zs hv hz => ?_⟩
  · refine ⟨v.endActive (refusedBy r 1), State.endActive_ended rfl _, ?_⟩
    rw [State.takeUpNext_cons ha hq, State.takeUpOne_refused hs hv]
    exact takeUp_queue (State.endActive_queue v _)
  · have hguard : s.takeUpOne q rest = (v.atGuard p).testGuard := by
      rw [State.takeUpOne_permitted hs hv, State.startClaiming, if_pos hz]
      exact State.enterGuard_eq rfl
    have hqueue : (v.atGuard p).testGuard.seq.queue = rest := queue_runSteps _ _
    rw [exec_guardReleaseTime_atGuard (s := v) hr, State.takeUpNext_cons ha hq, hguard, takeUp_queue hqueue]
  · have hclaim : s.takeUpOne q rest = ({ v with
        seq := { v.seq with active := some { p with phase := .claiming, claimStart := some s.now } }
        claims := { s.claims with job := some q.zones } }).asks z := by
      rw [State.takeUpOne_permitted hs hv, State.startClaiming, if_neg (by rw [hz]; exact List.cons_ne_nil z zs),
        State.claimOrder_cons _ hz]
      rfl
    have hactive : (({ v with
        seq := { v.seq with active := some { p with phase := .claiming, claimStart := some s.now } }
        claims := { s.claims with job := some q.zones } }).asks z).seq.active =
          some { p with phase := .claiming, claimStart := some s.now } := by
      rw [← State.askZone_eq]; simp
    rw [State.takeUpNext_cons ha hq, hclaim]
    cases rest with
    | nil => rfl
    | cons r rest => rw [takeUp, hactive]; rfl

/-! ### Deadlines (R140, R151) -/

theorem State.claimDeadlineReached_iff {s : State} {p : Program} (ha : s.seq.active = some p) :
    s.claimDeadlineReached = true ↔ s.outOfPatience p := by
  unfold State.claimDeadlineReached State.outOfPatience
  rw [ha, Option.bind_some]
  cases p.claimStart with
  | none => simp
  | some t => simp [after]

/-- Settles O31. -/
theorem deadlinesEndPrograms : Obligations.DeadlinesEndPrograms := by
  intro s hr
  have hclaim : exec .claimDeadline s = .next s.claimExpiry := by
    show execClaimDeadline s = _
    rw [execClaimDeadline, if_pos hr]
  have hguard : exec .guardDeadline s = .next s.guardExpiry := by
    show execGuardDeadline s = _
    rw [execGuardDeadline, if_pos hr]
  rw [hclaim, hguard]
  refine ⟨fun p ha => ⟨fun hp hout => ?_, fun hnot => ?_, fun release deadline hp => ⟨fun hreached => ?_, fun hbefore => ?_⟩,
    fun hp => ?_⟩, fun ha => ⟨?_, ?_⟩⟩
  · have hend : s.claimExpiry = s.finish (timedOut p.stepIndex) := by
      simp only [State.claimExpiry, ha]
      exact if_pos ⟨hp, (State.claimDeadlineReached_iff ha).2 hout⟩
    rw [hend]
    exact ⟨s.endActive _, State.endActive_ended ha _, rfl⟩
  · simp only [State.claimExpiry, ha]
    rw [if_neg]
    rintro ⟨hp, hout⟩
    exact hnot.elim (absurd hp) (absurd ((State.claimDeadlineReached_iff ha).1 hout))
  · have hend : s.guardExpiry = s.finish (plainEnd .failed (some .guardTimeout) p.stepIndex) := by
      simp only [State.guardExpiry, ha, hp, hreached, if_true]
      rfl
    rw [hend]
    exact ⟨s.endActive _, State.endActive_ended ha _, rfl⟩
  · simp only [State.guardExpiry, ha, hp, hbefore, Bool.false_eq_true, if_false]
  · have hnot : ∀ r d, p.phase ≠ .guard r d := fun r d heq => hp (by rw [heq]; rfl)
    simp only [State.guardExpiry, ha]
  · simp only [State.claimExpiry, ha]
  · simp only [State.guardExpiry, ha]

/-! ### Give-backs taken to their end (R161) -/

theorem State.yieldZones_ends {s : State} {p : Program} (ha : s.seq.active = some p) (cause : YieldCause) (y : YieldFrom) :
    GiveBackEnds s (s.yieldZones cause y) p cause y := by
  have hgiven := State.giveBack_given ha cause y
  refine ⟨s.giveBack cause y, hgiven, ?_⟩
  obtain ⟨hseq, -, -, -, -, hrest⟩ := hgiven
  have hactive : (s.giveBack cause y).seq.active = some { p with phase := .claiming } := by rw [hseq]
  have hpatience : (s.giveBack cause y).claimDeadlineReached = true ↔ s.outOfPatience p := by
    rw [State.claimDeadlineReached_iff hactive, hrest]
    rfl
  have hindex : (s.giveBack cause y).stepIndex = p.stepIndex := by
    rw [State.stepIndex, hactive]; rfl
  refine ⟨fun hnot => if_neg fun h => hnot (hpatience.1 h), fun hout => ?_⟩
  refine ⟨(s.giveBack cause y).endActive (timedOut p.stepIndex), State.endActive_ended hactive _, ?_⟩
  rw [State.yieldZones, if_pos (hpatience.2 hout), hindex]
  rfl

/-! ### What follows a drive (R154 to R156) -/

theorem drop_pred_of_getElem {α : Type} {l : List α} {x : α} {i : Nat} (hi : 1 ≤ i) (h : l[i - 1]? = some x) :
    l.drop (i - 1) = x :: l.drop i := by
  obtain ⟨hlt, rfl⟩ := List.getElem?_eq_some_iff.1 h
  rw [List.drop_eq_getElem_cons hlt, Nat.sub_add_cancel hi]

theorem State.stepsLeft_of {s : State} {p : Program} {st : Step} (ha : s.seq.active = some p) (hi : 1 ≤ p.stepIndex)
    (hst : p.steps[p.stepIndex - 1]? = some st) : s.stepsLeft = st :: p.steps.drop p.stepIndex := by
  rw [State.stepsLeft, ha]
  exact drop_pred_of_getElem hi hst

/-- The record of the next step as a completed drive leaves it (R155, R156). -/
def Program.nextStep (p : Program) : Program :=
  { p with stepIndex := p.stepIndex + 1, pendingStop := none, pendingYield := none, clashOffered := false }

section
variable {u : State} {p : Program} {nxt : Step} (ha : u.seq.active = some p) (hnxt : p.steps[p.stepIndex]? = some nxt)
include ha hnxt

/-- The next step refused by its precheck. -/
theorem State.nextStep_refused (yield : Option YieldFrom) {f : RefusalRecord}
    (hv : (u.withActive p.nextStep).evaluate nxt.switch nxt.target = .refuse f) :
    u.nextStep yield = (u.withActive p.nextStep).finish (refusedBy f (p.stepIndex + 1)) := by
  have hmap : (u.mapActive fun p => { p.clearFlags with stepIndex := p.stepIndex + 1 }) = u.withActive p.nextStep :=
    State.mapActive_eq ha _
  have hleft := State.stepsLeft_of (s := u.withActive p.nextStep) (p := p.nextStep) rfl (Nat.le_add_left 1 _) hnxt
  simp only [State.nextStep, hmap, hleft, hv]
  rfl

theorem State.nextStep_yields {y : YieldFrom} {b : Bool}
    (hv : (u.withActive p.nextStep).evaluate nxt.switch nxt.target = .permit b) :
    u.nextStep (some y) = (u.withActive p.nextStep).yieldZones .yieldRequest y := by
  have hmap : (u.mapActive fun p => { p.clearFlags with stepIndex := p.stepIndex + 1 }) = u.withActive p.nextStep :=
    State.mapActive_eq ha _
  have hleft := State.stepsLeft_of (s := u.withActive p.nextStep) (p := p.nextStep) rfl (Nat.le_add_left 1 _) hnxt
  simp only [State.nextStep, hmap, hleft, hv]

theorem State.nextStep_guarded {b : Bool}
    (hv : (u.withActive p.nextStep).evaluate nxt.switch nxt.target = .permit b) :
    u.nextStep none = (u.atGuard p.nextStep).testGuard.takeUpNext := by
  have hmap : (u.mapActive fun p => { p.clearFlags with stepIndex := p.stepIndex + 1 }) = u.withActive p.nextStep :=
    State.mapActive_eq ha _
  have hleft := State.stepsLeft_of (s := u.withActive p.nextStep) (p := p.nextStep) rfl (Nat.le_add_left 1 _) hnxt
  simp only [State.nextStep, hmap, hleft, hv]
  rw [State.enterGuard_eq (s := u.withActive p.nextStep) rfl]
  rfl

end

/-- The state from which a drive's end is taken: the report gone, and a completed step reported (R155 step 1). -/
def State.stepTaken (s : State) (p : Program) (st : Step) (r : DriveReport) : State :=
  match r with
  | .completed => { s with bay := { s.bay with report := none } }.raise [.stepComplete p.handle p.stepIndex st.switch .driven]
  | .failed _ => { s with bay := { s.bay with report := none } }

theorem State.stepTaken_keeps (s : State) (p : Program) (st : Step) (r : DriveReport) :
    (s.stepTaken p st r).seq = s.seq ∧ ((s.stepTaken p st r).running = s.running) := by
  cases r with
  | completed =>
    rw [State.stepTaken, State.raise_eq]
    exact ⟨rfl, rfl⟩
  | failed k => exact ⟨rfl, rfl⟩

/-- The end of a drive is taken by the causes of an ending, in order (R155). -/
theorem exec_driveEndReport {s : State} {r : DriveReport} {p : Program} {st : Step} (hr : s.running = true)
    (hreport : s.bay.report = some r) (ha : s.seq.active = some p) (hp : p.phase = .driving)
    (hst : p.steps[p.stepIndex - 1]? = some st) :
    exec .driveEndReport s = .next (match p.pendingStop with
      | some c => (s.stepTaken p st r).finish (stoppedBy c p.stepIndex)
      | none => match r with
        | .failed k => (s.stepTaken p st r).finish (endOf .failed k.reason p.stepIndex)
        | .completed => if p.stepIndex ≥ p.steps.length then (s.stepTaken p st r).finish (endOf .done none p.stepIndex)
          else (s.stepTaken p st r).nextStep p.pendingYield) := by
  have hexec : exec .driveEndReport s = .next s.takeReport := by
    show execDriveEndReport s = _
    rw [execDriveEndReport, if_pos hr]
  have htake : s.takeReport = { s with bay := { s.bay with report := none } }.stepEnd p r := by
    simp only [State.takeReport, hreport, ha, hp, if_true]
    rfl
  rw [hexec, htake]
  unfold State.stepEnd
  simp only [hst, ← stopEnd_eq]
  cases r <;> rfl

/-- Settles O30: the ending causes in order, else the next step's precheck, the pending yield and GUARD. -/
theorem driveEndDecidesWhatFollows : Obligations.DriveEndDecidesWhatFollows := by
  intro s r p st hr hreport ha hp hst hi
  have hexec := exec_driveEndReport hr hreport ha hp hst
  obtain ⟨hseq, hrun⟩ := s.stepTaken_keeps p st r
  have ha' : (s.stepTaken p st r).seq.active = some p := by rw [hseq]; exact ha
  refine ⟨fun c hc => ?_, fun k reason hnone hfail hreason => ?_, fun hnone hdone hlast => ?_,
    fun nxt hnone hdone hnxt => ⟨fun f hv => ?_, fun b y hv hyield => ?_, fun b hv hyield => ?_⟩⟩
  · rw [hexec, hc]
    exact ⟨_, State.endActive_ended ha' _, rfl⟩
  · rw [hexec, hnone]
    subst hfail
    have hkind : endOf .failed k.reason p.stepIndex = plainEnd .failed (some reason) p.stepIndex := by
      rcases hreason with ⟨rfl, rfl⟩ | ⟨rfl, rfl⟩ | ⟨rfl, rfl⟩ <;> rfl
    refine ⟨_, State.endActive_ended ha' _, congrArg (fun e => Host.Outcome.next ((s.stepTaken p st _).finish e)) hkind⟩
  · rw [hexec, hnone]
    subst hdone
    simp only [if_pos hlast.ge]
    exact ⟨_, State.endActive_ended ha' _, rfl⟩
  all_goals
    subst hdone
    have hmore : ¬ p.stepIndex ≥ p.steps.length := Nat.not_le.2 (List.getElem?_eq_some_iff.1 hnxt).1
    simp only [hnone, if_neg hmore] at hexec
    rw [hexec]
  · rw [State.nextStep_refused ha' hnxt _ hv]
    exact ⟨_, State.endActive_ended rfl _, rfl⟩
  · rw [hyield, State.nextStep_yields ha' hnxt hv]
    exact ⟨_, rfl, State.yieldZones_ends rfl _ _⟩
  · rw [hyield, State.nextStep_guarded ha' hnxt hv]
    exact (exec_guardReleaseTime_atGuard (hrun.trans hr) _).symm

end Sys2Proof.Machine
end


section
/-! PROOFS. The timing guard and VERIFY (R150 to R156), the selector's turn (R159), and the admission of programs (R145,
R168). -/
namespace Sys2Proof.Machine

/-! ### The guard's release time (R150) -/

/-- Of two times within half a turn after `b`, the later is the one further from it (R119). -/
theorem laterOf_further {t1 t2 b : Time} (h1 : (t1 - b).toNat < 2147483648) (h2 : (t2 - b).toNat < 2147483648) :
    (t1 - b).toNat ≤ (laterOf t1 t2 - b).toNat ∧ (t2 - b).toNat ≤ (laterOf t1 t2 - b).toNat := by
  have hdiff : (t1 - t2).toNat < 2147483648 ↔ (t2 - b).toNat ≤ (t1 - b).toNat := by
    simp only [BitVec.toNat_sub] at *
    have := t1.isLt
    have := t2.isLt
    have := b.isLt
    omega
  unfold laterOf
  split
  next h => exact ⟨Nat.le_refl _, hdiff.1 ((atOrAfter_iff _ _).1 h)⟩
  next h =>
    refine ⟨?_, Nat.le_refl _⟩
    have : ¬ (t2 - b).toNat ≤ (t1 - b).toNat := fun hle => h ((atOrAfter_iff _ _).2 (hdiff.2 hle))
    omega

theorem laterOf_mem (t1 t2 : Time) : laterOf t1 t2 = t1 ∨ laterOf t1 t2 = t2 := by
  unfold laterOf
  split
  · exact .inl rfl
  · exact .inr rfl

/-- The latest of a list of times is one of them, and no other is further from a time less than half a turn before all. -/
theorem foldl_laterOf (ts : List Time) (t : Time) : ts.foldl laterOf t ∈ t :: ts ∧
    ∀ b : Time, (∀ y ∈ t :: ts, (y - b).toNat < 2147483648) → ∀ y ∈ t :: ts, (y - b).toNat ≤ (ts.foldl laterOf t - b).toNat := by
  induction ts generalizing t with
  | nil => exact ⟨List.mem_singleton.2 rfl, fun b _ y hy => by rw [List.mem_singleton.1 hy]; exact Nat.le_refl _⟩
  | cons x rest ih =>
    obtain ⟨hmem, hlatest⟩ := ih (laterOf t x)
    rw [List.foldl_cons]
    refine ⟨?_, fun b hnear y hy => ?_⟩
    · rcases List.mem_cons.1 hmem with h | h
      · rw [h]
        rcases laterOf_mem t x with h | h <;> rw [h] <;> simp
      · exact List.mem_cons_of_mem _ (List.mem_cons_of_mem _ h)
    · obtain ⟨ht, hx⟩ := laterOf_further (hnear t List.mem_cons_self) (hnear x (List.mem_cons_of_mem _ List.mem_cons_self))
      have hnear' : ∀ y ∈ laterOf t x :: rest, (y - b).toNat < 2147483648 := by
        intro y hy
        rcases List.mem_cons.1 hy with rfl | hy
        · rcases laterOf_mem t x with h | h <;> rw [h]
          · exact hnear t List.mem_cons_self
          · exact hnear x (List.mem_cons_of_mem _ List.mem_cons_self)
        · exact hnear y (List.mem_cons_of_mem _ (List.mem_cons_of_mem _ hy))
      have hlast := hlatest b hnear'
      rcases List.mem_cons.1 hy with rfl | hy
      · exact ht.trans (hlast _ List.mem_cons_self)
      · rcases List.mem_cons.1 hy with rfl | hy
        · exact hx.trans (hlast _ List.mem_cons_self)
        · exact hlast y (List.mem_cons_of_mem _ hy)

/-- The times of the guard that the clock has not reached. -/
def State.guardWaits (s : State) (id : Nat) : List Time := (s.guardTimes id).filter fun x => s.reached x = false

theorem State.all_reached_iff (s : State) (id : Nat) : (s.guardTimes id).all s.reached = true ↔ s.guardWaits id = [] := by
  simp [State.guardWaits, List.filter_eq_nil_iff]

/-- A guard that waits is released at the latest of its times. -/
theorem State.guardRelease_waits {s : State} {id : Nat} (h : s.guardWaits id ≠ []) : ∃ x ∈ s.guardTimes id,
    (∀ b : Time, (∀ y ∈ s.guardTimes id, (y - b).toNat < 2147483648) →
      ∀ y ∈ s.guardTimes id, (y - b).toNat ≤ (x - b).toNat) ∧ s.guardRelease id = some x := by
  have hall : ¬ (s.guardTimes id).all s.reached = true := mt (s.all_reached_iff id).1 h
  cases hts : s.guardTimes id with
  | nil => rw [hts] at hall; exact absurd rfl hall
  | cons t ts =>
    rw [hts] at hall
    obtain ⟨hmem, hlatest⟩ := foldl_laterOf ts t
    refine ⟨ts.foldl laterOf t, hmem, hlatest, ?_⟩
    rw [State.guardRelease, hts]
    exact if_neg hall

theorem State.guardRelease_satisfied {s : State} {id : Nat} (h : s.guardWaits id = []) : s.guardRelease id = none := by
  have hall := (s.all_reached_iff id).2 h
  unfold State.guardRelease
  cases hts : s.guardTimes id with
  | nil => rfl
  | cons t ts => rw [hts] at hall; exact if_pos hall

theorem State.move_eq_none {s : State} {z : Nat} (h : ∀ m ∈ s.image.moves, m.zone ≠ z) : s.move? z = none := by
  rw [State.move?, find_key_eq_none.2 h]

/-- In a table whose keys differ, a row is found under its key. -/
theorem find_of_mem_nodup {α : Type} {key : α → Nat} {l : List α} (h : (l.map key).Nodup) {a : α} (ha : a ∈ l) :
    l.find? (fun x => key x == key a) = some a := by
  induction l with
  | nil => cases ha
  | cons x rest ih =>
    obtain ⟨hx, hrest⟩ := List.nodup_cons.1 h
    rcases List.mem_cons.1 ha with rfl | ha
    · exact List.find?_cons_of_pos (beq_self_eq_true _)
    · have hne : ¬ (key x == key a) = true := by
        simpa using fun heq : key x = key a => hx (heq ▸ List.mem_map_of_mem ha)
      exact (List.find?_cons_of_neg (p := fun x => key x == key a) hne).trans (ih hrest ha)

theorem State.move_of_mem {s : State} {m : ZoneMove} (hm : m ∈ s.image.moves) (h : (s.image.moves.map (·.zone)).Nodup) :
    s.move? m.zone = m.time := by
  rw [State.move?, find_of_mem_nodup h hm]

/-! ### The step in GUARD tested (R150, R152, R153) -/

section
variable {s : State} {p : Program} {st : Step} {release deadline : Time} (ha : s.seq.active = some p)
  (hp : p.phase = .guard release deadline) (hi : 1 ≤ p.stepIndex) (hst : p.steps[p.stepIndex - 1]? = some st)
include ha hi hst

theorem State.testGuard_eq : s.testGuard = runSteps (st :: p.steps.drop p.stepIndex) s := by
  rw [State.testGuard, State.stepsLeft_of ha hi hst]

include hp in
/-- A guard not satisfied gets a new release time. -/
theorem State.testGuard_waits {x : Time} (h : s.guardRelease st.switch = some x) :
    s.testGuard = s.withActive { p with phase := .guard x deadline } := by
  rw [State.testGuard_eq ha hi hst, runSteps, h]
  simp only [State.mapActive, ha, Option.map_some, hp]
  rfl

section
variable (h : s.guardRelease st.switch = none)
include h

theorem State.testGuard_refused {r : RefusalRecord} (hv : s.evaluate st.switch st.target = .refuse r) :
    s.testGuard = s.endActive (refusedBy r p.stepIndex) := by
  have hindex : s.stepIndex = p.stepIndex := by rw [State.stepIndex, ha]; rfl
  rw [State.testGuard_eq ha hi hst, runSteps, h]
  simp only [hv, hindex]
  rfl

theorem State.testGuard_drives (hv : s.evaluate st.switch st.target = .permit false) :
    s.testGuard = (s.withActive p.driven).driveOrder st.switch st.target p.handle p.stepIndex := by
  rw [State.testGuard_eq ha hi hst, runSteps, h]
  simp only [hv]
  exact State.beginDrive_eq ha st

/-- A step found at its target completes; what follows is the rest of the program. -/
theorem State.testGuard_already (hv : s.evaluate st.switch st.target = .permit true) :
    s.testGuard =
      match p.steps.drop p.stepIndex with
      | [] => (s.raise [.stepComplete p.handle p.stepIndex st.switch .already]).endActive (plainEnd .done none p.stepIndex)
      | nxt :: more =>
        let v := (s.raise [.stepComplete p.handle p.stepIndex st.switch .already]).withActive
          { p with stepIndex := p.stepIndex + 1 }
        match v.evaluate nxt.switch nxt.target with
        | .refuse r => v.endActive (refusedBy r (p.stepIndex + 1))
        | .permit _ => runSteps (nxt :: more) (v.setPhase (.guard v.now v.guardDeadline)) := by
  have hindex : s.stepIndex = p.stepIndex := by rw [State.stepIndex, ha]; rfl
  have hhandle : s.activeHandle = p.handle := by rw [State.activeHandle, ha]; rfl
  have hraised : (s.event (.stepComplete p.handle p.stepIndex st.switch .already)).seq.active = some p := by simpa using ha
  have hindex' : (s.event (.stepComplete p.handle p.stepIndex st.switch .already)).stepIndex = p.stepIndex := by
    rw [State.stepIndex, hraised]; rfl
  have hmap : ((s.event (.stepComplete p.handle p.stepIndex st.switch .already)).mapActive fun p =>
      { p with stepIndex := p.stepIndex + 1 }) =
        (s.event (.stepComplete p.handle p.stepIndex st.switch .already)).withActive { p with stepIndex := p.stepIndex + 1 } :=
    State.mapActive_eq hraised _
  rw [State.testGuard_eq ha hi hst, runSteps, h]
  simp only [hv, hhandle, hindex, hindex', hmap, State.raise_one]
  cases p.steps.drop p.stepIndex <;> rfl

theorem State.testGuard_done (hv : s.evaluate st.switch st.target = .permit true) (hlast : p.stepIndex = p.steps.length) :
    s.testGuard = (s.raise [.stepComplete p.handle p.stepIndex st.switch .already]).endActive
      (plainEnd .done none p.stepIndex) := by
  rw [State.testGuard_already ha hi hst h hv, List.drop_eq_nil_of_le hlast.ge]

section
variable {nxt : Step} (hv : s.evaluate st.switch st.target = .permit true) (hnxt : p.steps[p.stepIndex]? = some nxt)
include hv hnxt

theorem State.testGuard_nextRefused {r : RefusalRecord}
    (hr : ((s.raise [.stepComplete p.handle p.stepIndex st.switch .already]).withActive
      { p with stepIndex := p.stepIndex + 1 }).evaluate nxt.switch nxt.target = .refuse r) :
    s.testGuard = ((s.raise [.stepComplete p.handle p.stepIndex st.switch .already]).withActive
      { p with stepIndex := p.stepIndex + 1 }).endActive (refusedBy r (p.stepIndex + 1)) := by
  have hdrop := drop_pred_of_getElem (i := p.stepIndex + 1) (Nat.le_add_left 1 _) hnxt
  rw [Nat.add_sub_cancel] at hdrop
  rw [State.testGuard_already ha hi hst h hv, hdrop]
  simp only [hr]

theorem State.testGuard_next {b : Bool}
    (hr : ((s.raise [.stepComplete p.handle p.stepIndex st.switch .already]).withActive
      { p with stepIndex := p.stepIndex + 1 }).evaluate nxt.switch nxt.target = .permit b) :
    s.testGuard = ((s.raise [.stepComplete p.handle p.stepIndex st.switch .already]).atGuard
      { p with stepIndex := p.stepIndex + 1 }).testGuard := by
  have hdrop := drop_pred_of_getElem (i := p.stepIndex + 1) (Nat.le_add_left 1 _) hnxt
  rw [Nat.add_sub_cancel] at hdrop
  rw [State.testGuard_already ha hi hst h hv, hdrop]
  simp only [hr]
  rw [State.setPhase_eq (s := (s.raise _).withActive { p with stepIndex := p.stepIndex + 1 }) rfl, State.testGuard, ← hdrop]
  rfl

end
end
end

theorem State.raise_running (s : State) (l : List EventBody) : (s.raise l).running = s.running := by
  rw [State.raise_eq]
  rfl

/-- A drive order at the end opposite its target: the drive record, and the stuck timer stopped (R28, R29). -/
theorem State.driveOrder_begins {s : State} {st : Step} (h : (s.localPoint? st.switch).bind (·.value) = some st.target.startEnd)
    (handle step : Nat) : s.driveOrder st.switch st.target handle step =
      ({ s with bay := { s.bay with
        drive := some ⟨st.switch, st.target, s.now, s.now + BitVec.ofNat 32 (s.runTime st.switch), false, handle, step⟩ }
        }).pointSet st.switch (fun q => { q with stuck := none }) := by
  rw [State.driveOrder, if_pos h, ← State.mapPoint_eq]
  rfl

/-- A drive that begins energises the one coil of its switch (R28). -/
theorem State.driveOrder_coils {s : State} {st : Step} {l : LocalDef}
    (h : (s.localPoint? st.switch).bind (·.value) = some st.target.startEnd)
    (hl : s.ctl.model.local? st.switch = some l) (handle step : Nat) :
    (s.driveOrder st.switch st.target handle step).coils = [(l.coil, st.target)] := by
  rw [State.driveOrder, if_pos h]
  simp [State.coils, hl]

/-- Settles O32: the release time of a guard that waits, and the verdict of one that does not. -/
theorem guardIsTestedAndVerified : Obligations.GuardIsTestedAndVerified := by
  intro s p st release deadline hr ha hp hi hst completion settled waits driving
  have hexec (h : s.reached release = true) : exec .guardReleaseTime s = .next s.testGuard.takeUpNext := by
    rw [exec_guardReleaseTime hr, State.guardRetest_reached ha hp h]
  refine ⟨rfl, fun z => ⟨State.move_eq_none, fun m hm hz hnodup => hz ▸ State.move_of_mem hm hnodup⟩, fun hbefore => ?_,
    fun hreached => ⟨fun hwait => ?_, fun hsat => ?_⟩⟩
  · rw [exec_guardReleaseTime hr, State.guardRetest_before ha hp hbefore]
  · obtain ⟨x, hx, hlatest, hrelease⟩ := State.guardRelease_waits (s := s) (id := st.switch) hwait
    refine ⟨x, hx, hlatest, ?_⟩
    rw [hexec hreached, State.testGuard_waits ha hp hi hst hrelease]
    exact congrArg _ (State.takeUpNext_of_active rfl)
  · have hrelease := State.guardRelease_satisfied (s := s) (id := st.switch) hsat
    rw [hexec hreached]
    refine ⟨fun r hv => ?_, fun hv => ?_, fun hv => ?_⟩
    · rw [State.testGuard_refused ha hi hst hrelease hv]
      exact ⟨_, State.endActive_ended ha _, rfl⟩
    · rw [State.testGuard_drives ha hi hst hrelease hv,
        State.takeUpNext_of_active (p := p.driven) (by simp [State.withActive])]
      refine ⟨fun hend => ?_, fun hend => ?_⟩
      · have hbegins := State.driveOrder_begins (s := s.withActive p.driven) (st := st) hend p.handle p.stepIndex
        refine ⟨_, rfl, hbegins, fun l hl => ?_⟩
        exact State.driveOrder_coils (s := s.withActive p.driven) hend hl _ _
      · rw [State.driveOrder, if_neg (by exact hend), State.failSwitch_eq]
        rfl
    · intro u
      refine ⟨fun hlast => ?_, fun nxt hnxt => ?_⟩
      · rw [State.testGuard_done ha hi hst hrelease hv hlast]
        exact ⟨_, State.endActive_ended (by simpa [u] using ha) _, rfl⟩
      · intro q v
        refine ⟨fun r hv' => ?_, fun b hv' => ?_⟩
        · rw [State.testGuard_nextRefused ha hi hst hrelease hv hnxt hv']
          exact ⟨_, State.endActive_ended rfl _, rfl⟩
        · have hrun : u.running = true := (State.raise_running s _).trans hr
          rw [State.testGuard_next ha hi hst hrelease hv hnxt hv', exec_guardReleaseTime_atGuard hrun]

end Sys2Proof.Machine
end


section
/-! PROOFS. The selector's turn (R23, R159), and the admission of programs (R145, R168). -/
namespace Sys2Proof.Machine

/-! ### The selector (R19, R23, R159) -/

/-- The programs after a turn to LOCAL: the queue emptied, and its programs' ends raised. -/
theorem State.abortQueue_of {s : State} {q : List Program} (h : s.seq.queue = q) (reason : Reason) :
    s.abortQueue reason = { s with
      seq := { s.seq with queue := [] }, port := (s.raise (queueEnds reason q)).port } := by
  rw [State.abortQueue_eq, h]

section
variable {s : State} {r : Selector} {since : Time} (hw : s.working = true) (hpending : s.bay.selector.pending = some (r, since))
include hw hpending

theorem exec_filterSelector_before (h : s.reached (since + BitVec.ofNat 32 s.params.filterTime) = false) :
    exec (.filterTimerExpiry .selector) s = .next s := by
  have hnot : ¬ s.reached (after since s.params.filterTime) = true := by rw [after, h]; exact Bool.false_ne_true
  show execFilterTimerExpiry .selector s = _
  rw [execFilterTimerExpiry, if_pos hw]
  simp only [State.filterSelector, hpending, if_neg hnot]

/-- The selector's filtered reading, and what a change of state does besides (R23). -/
theorem exec_filterSelector (h : s.reached (since + BitVec.ofNat 32 s.params.filterTime) = true) :
    exec (.filterTimerExpiry .selector) s = .next (
      if r = s.bay.selectorState then { s with bay := { s.bay with selector := ⟨some r, none⟩ } }
      else if r = .atBay ∧ s.running = true then
        ({ s with bay := { s.bay with selector := ⟨some r, none⟩ } }.raise [.selectorChanged r]).localTakeover
      else { s with bay := { s.bay with selector := ⟨some r, none⟩ } }.raise [.selectorChanged r]) := by
  have hreached : s.reached (after since s.params.filterTime) = true := h
  show execFilterTimerExpiry .selector s = _
  rw [execFilterTimerExpiry, if_pos hw]
  simp only [State.filterSelector, hpending, if_pos hreached]
  split
  · rfl
  · rfl

end

/-- Settles O33: the filtered reading, the event of a turn, and the programs that a turn to LOCAL ends. -/
theorem selectorTurnsTakePrograms : Obligations.SelectorTurnsTakePrograms := by
  intro s r since hw hpending v
  refine ⟨?_, exec_filterSelector_before hw hpending, fun hreached => ?_⟩
  · rw [BayIO.selectorState]
    cases s.bay.selector.value <;> rfl
  have hexec := exec_filterSelector hw hpending hreached
  refine ⟨fun hsame => ?_, fun hturn hquiet => ?_, fun hturn hlocal hrun => ?_⟩
  · rw [hexec, if_pos hsame]
  · have hnot : ¬ (r = .atBay ∧ s.running = true) := by
      rintro ⟨rfl, hrun⟩
      rcases hquiet with h | h
      · cases h
      · rw [hrun] at h; cases h
    rw [hexec, if_neg hturn, if_neg hnot]
  · subst hlocal
    rw [if_neg hturn, if_pos ⟨rfl, hrun⟩] at hexec
    intro u emptied
    have hseq : u.seq = s.seq := by simp [u, v]
    rw [hexec]
    refine ⟨fun hnone => ?_, fun p ha => ⟨fun hp => ?_, fun hp => ?_⟩⟩
    · have hstop : u.stopActive .localTakeover = u := by rw [State.stopActive, hseq, hnone]
      show Host.Outcome.next ((u.stopActive .localTakeover).abortQueue .localTakeover) = _
      rw [hstop, State.abortQueue_of (congrArg Sequencer.queue hseq)]
    · have ha' : u.seq.active = some p := by rw [hseq]; exact ha
      show Host.Outcome.next ((u.stopActive .localTakeover).abortQueue .localTakeover) = _
      rw [State.stopActive_driving ha' hp]
      have hqueue : u.seq.queue = s.seq.queue := congrArg Sequencer.queue hseq
      exact congrArg _ (State.abortQueue_of (s := u.withActive _) (by exact hqueue) _)
    · have ha' : u.seq.active = some p := by rw [hseq]; exact ha
      refine ⟨u.endActive (plainEnd .aborted (some .localTakeover) p.stepIndex), State.endActive_ended ha' _, ?_⟩
      show Host.Outcome.next ((u.stopActive .localTakeover).abortQueue .localTakeover) = _
      rw [State.stopActive_notDriving ha' hp]
      exact congrArg _ (State.abortQueue_of ((State.endActive_queue u _).trans (congrArg Sequencer.queue hseq)) _)

/-! ### The form of a request (R168) -/

/-- A step's form: a local switch of the model, and one of the two targets. -/
def State.goodStep (s : State) (f : StepField) : Prop :=
  s.ctl.model.isLocalSwitch f.point = true ∧ (f.target = 1 ∨ f.target = 2)

/-- The step that a field spells. -/
def stepSpelled (f : StepField) : Step := ⟨f.point, if f.target = 1 then .opened else .closed⟩

theorem State.stepOf_good {s : State} {f : StepField} (h : s.goodStep f) : s.stepOf f = some (stepSpelled f) := by
  obtain ⟨hl, ht⟩ := h
  rw [State.stepOf, if_pos hl, stepSpelled]
  rcases ht with ht | ht <;> rw [ht] <;> rfl

theorem State.stepOf_bad {s : State} {f : StepField} (h : ¬ s.goodStep f) : s.stepOf f = none := by
  rw [State.stepOf]
  split
  next hl =>
    have ht : ¬ (f.target = 1 ∨ f.target = 2) := fun ht => h ⟨hl, ht⟩
    rw [targetOf_eq_none (not_or.1 ht).1 (not_or.1 ht).2]
    rfl
  next => rfl

theorem State.stepsOf_good {s : State} {fields : List StepField} (h : ∀ f ∈ fields, s.goodStep f) :
    s.stepsOf fields = some (fields.map stepSpelled) := by
  induction fields with
  | nil => rfl
  | cons f rest ih =>
    rw [State.stepsOf, State.stepOf_good (h f List.mem_cons_self), ih fun g hg => h g (List.mem_cons_of_mem f hg)]
    rfl

theorem State.stepsOf_bad {s : State} {fields : List StepField} (h : ∃ f ∈ fields, ¬ s.goodStep f) :
    s.stepsOf fields = none := by
  induction fields with
  | nil => obtain ⟨f, hf, -⟩ := h; cases hf
  | cons f rest ih =>
    rw [State.stepsOf]
    by_cases hf : s.goodStep f
    · obtain ⟨g, hg, hbad⟩ := h
      rcases List.mem_cons.1 hg with rfl | hg
      · exact absurd hf hbad
      · rw [ih ⟨g, hg, hbad⟩]
        cases s.stepOf f <;> rfl
    · rw [State.stepOf_bad hf]

theorem State.formOf_good {s : State} {urgency : Nat} {fields : List StepField} (hu : urgency ≤ 3) (h1 : 1 ≤ fields.length)
    (h8 : fields.length ≤ 8) (h : ∀ f ∈ fields, s.goodStep f) :
    s.formOf urgency fields = some (fields.map stepSpelled) := by
  rw [State.formOf, if_pos ⟨hu, h1, h8⟩, State.stepsOf_good h]

theorem State.formOf_bad {s : State} {urgency : Nat} {fields : List StepField}
    (h : 3 < urgency ∨ fields.length = 0 ∨ 8 < fields.length ∨ ∃ f ∈ fields, ¬ s.goodStep f) :
    s.formOf urgency fields = none := by
  rw [State.formOf]
  split
  next hform =>
    obtain ⟨hu, h1, h8⟩ := hform
    rcases h with h | h | h | h
    · omega
    · omega
    · omega
    · exact State.stepsOf_bad h
  next => rfl

theorem State.stepsOf_congr {s t : State} (h : t.ctl = s.ctl) (fields : List StepField) :
    t.stepsOf fields = s.stepsOf fields := by
  induction fields with
  | nil => rfl
  | cons f rest ih =>
    have hf : t.stepOf f = s.stepOf f := by rw [State.stepOf, State.stepOf, h]
    rw [State.stepsOf, State.stepsOf, hf, ih]

/-- The form of a request is judged by the model alone. -/
theorem State.formOf_congr {s t : State} (h : t.ctl = s.ctl) (urgency : Nat) (fields : List StepField) :
    t.formOf urgency fields = s.formOf urgency fields := by
  rw [State.formOf, State.formOf, State.stepsOf_congr h]

/-! ### OPERATE and PROGRAM taken (R145, R168) -/

/-- The two commands that bring a program, and the fields that they carry. -/
def BringsProgram (tag : Byte) (urgency : Nat) (fields : List StepField) (c : Instr) (req : Request) : Prop :=
  (req = .program urgency fields ∧ c = .program tag urgency fields) ∨
    ∃ point target, fields = [⟨point, target⟩] ∧ req = .operate urgency point target ∧ c = .operate tag urgency point target

section
variable {s : State} {tag : Byte} {urgency : Nat} {fields : List StepField} {c : Instr} {req : Request}
  (hs : s.free) (hm : s.ctl.mode = .run) (hc : BringsProgram tag urgency fields c req)
include hs hm hc

theorem exec_bringsProgram : exec c s = .next ((s.holding tag req).takeProgram ⟨tag, req⟩ urgency fields) := by
  have hadmit : modeRefusal s.ctl.mode .operation = none := by rw [hm]; rfl
  rcases hc with ⟨rfl, rfl⟩ | ⟨point, target, rfl, rfl, rfl⟩
  · exact exec_commandOf_admitted hs tag (r := .program urgency fields) trivial hadmit
  · exact exec_commandOf_admitted hs tag (r := .operate urgency point target) trivial hadmit

theorem exec_program_badForm (h : s.formOf urgency fields = none) :
    exec c s = .next (s.replied (requestTypeCode req) tag .badRequest .none) := by
  have h' : (s.holding tag req).formOf urgency fields = none := (State.formOf_congr (s := s) (t := s.holding tag req) rfl urgency fields).trans h
  rw [exec_bringsProgram hs hm hc, State.takeProgram, h']
  rfl

section
variable {steps : List Step} (h : s.formOf urgency fields = some steps)
include h

theorem exec_program_selector (hsel : s.bay.selectorState ≠ .remote) :
    exec c s = .next (s.replied (requestTypeCode req) tag .selectorLocal .none) := by
  have h' : (s.holding tag req).formOf urgency fields = some steps := (State.formOf_congr (s := s) (t := s.holding tag req) rfl urgency fields).trans h
  rw [exec_bringsProgram hs hm hc, State.takeProgram, h']
  exact congrArg _ (if_pos hsel)

variable (hsel : s.bay.selectorState = .remote)
include hsel

theorem exec_program_link (hlink : s.link.mode ≠ .active) :
    exec c s = .next (s.replied (requestTypeCode req) tag .linkDown .none) := by
  have h' : (s.holding tag req).formOf urgency fields = some steps := (State.formOf_congr (s := s) (t := s.holding tag req) rfl urgency fields).trans h
  rw [exec_bringsProgram hs hm hc, State.takeProgram, h']
  exact congrArg _ ((if_neg (not_not.2 hsel)).trans (if_pos hlink))

variable (hlink : s.link.mode = .active)
include hlink

theorem exec_program_full (hfull : 4 ≤ s.seq.queue.length) :
    exec c s = .next (s.replied (requestTypeCode req) tag .queueFull .none) := by
  have h' : (s.holding tag req).formOf urgency fields = some steps := (State.formOf_congr (s := s) (t := s.holding tag req) rfl urgency fields).trans h
  rw [exec_bringsProgram hs hm hc, State.takeProgram, h']
  exact congrArg _ ((if_neg (not_not.2 hsel)).trans ((if_neg (not_not.2 hlink)).trans (if_pos hfull)))

theorem exec_program_queued (hroom : s.seq.queue.length < 4) :
    exec c s = .next (((s.holding tag req).enqueue urgency steps).replied (requestTypeCode req) tag .ok
      (.handle s.newHandle)) := by
  have h' : (s.holding tag req).formOf urgency fields = some steps := (State.formOf_congr (s := s) (t := s.holding tag req) rfl urgency fields).trans h
  rw [exec_bringsProgram hs hm hc, State.takeProgram, h']
  exact congrArg _ ((if_neg (not_not.2 hsel)).trans ((if_neg (not_not.2 hlink)).trans (if_neg (Nat.not_le.2 hroom))))

end
end

/-- The zones of a list of steps, in the order of the model's (R6). -/
theorem YardModel.requiredUnion_steps (m : YardModel) (steps : List Step) : m.requiredUnion (steps.map (·.switch)) =
    (m.zones.map (·.number)).filter fun z => steps.any fun st => (m.required st.switch).contains z := by
  simp [YardModel.requiredUnion, List.any_map, Function.comp_def]

theorem handleAfter_eq {h : Nat} (hle : h ≤ 255) : handleAfter h = if h = 255 then 1 else h + 1 := by
  unfold handleAfter
  by_cases h255 : h = 255
  · rw [if_pos h255.ge, if_pos h255]
  · rw [if_neg (by omega), if_neg h255]

/-! ### The model's switches and their zones (R2, R3, R6) -/

theorem PointKind.isSwitch_iff (k : PointKind) : k.isSwitch = true ↔ k = .breaker ∨ k = .disconnector ∨ k = .earthing := by
  cases k <;> simp [PointKind.isSwitch]

section
variable {m : YardModel} {id : Nat} (h : (m.points.map (·.id)).Nodup)
include h

theorem YardModel.point?_eq_some {p : PointDef} : m.point? id = some p ↔ p ∈ m.points ∧ p.id = id := by
  refine ⟨mem_of_find_key, ?_⟩
  rintro ⟨hp, rfl⟩
  exact find_of_mem_nodup h hp

/-- What is said of the point that an id names is said of the point of the table that bears it. -/
theorem YardModel.exists_point? {P : PointDef → Prop} : (∃ p, m.point? id = some p ∧ P p) ↔ ∃ p ∈ m.points, p.id = id ∧ P p :=
  exists_congr fun p => by rw [YardModel.point?_eq_some h, and_assoc]

theorem YardModel.isSwitch_iff : m.isSwitch id = true ↔
    ∃ p ∈ m.points, p.id = id ∧ (p.kind = .breaker ∨ p.kind = .disconnector ∨ p.kind = .earthing) := by
  simp only [← YardModel.exists_point? h, ← PointKind.isSwitch_iff, YardModel.isSwitch]
  cases m.point? id <;> simp

theorem YardModel.isLocalSwitch_iff : m.isLocalSwitch id = true ↔
    ∃ p ∈ m.points, p.id = id ∧ (p.kind = .breaker ∨ p.kind = .disconnector ∨ p.kind = .earthing) ∧ p.owner = m.unit := by
  simp only [← YardModel.exists_point? h, ← PointKind.isSwitch_iff, YardModel.isLocalSwitch]
  cases m.point? id <;> simp

theorem YardModel.mem_required (z : Nat) : z ∈ m.required id ↔
    ∃ p ∈ m.points, p.id = id ∧ (p.kind = .breaker ∨ p.kind = .disconnector ∨ p.kind = .earthing) ∧
      ∃ y ∈ m.zones, y.number = z ∧ (p.nodeA ∈ y.nodes ∨ p.kind ≠ .earthing ∧ p.nodeB ∈ y.nodes) := by
  simp only [← YardModel.exists_point? h, ← PointKind.isSwitch_iff, YardModel.required]
  cases m.point? id with
  | none => simp
  | some p =>
    cases hk : p.kind.isSwitch
    · simp [hk]
    · simp [hk, and_comm, and_assoc]

end

/-- Settles O26: the checks of a program in order and the record that passes them, and the model's zones of a switch. -/
theorem programsAreAdmitted : Obligations.ProgramsAreAdmitted := by
  refine ⟨fun s tag urgency fields c req hs hm hc => ?_, fun m id h => ?_⟩
  · intro good type
    refine ⟨fun hbad => exec_program_badForm hs hm hc (State.formOf_bad hbad), fun hu h1 h8 hgood => ?_⟩
    have hform := State.formOf_good (s := s) hu h1 h8 hgood
    refine ⟨exec_program_selector hs hm hc hform, fun hsel hmuted => ?_,
      fun hsel hlink => exec_program_full hs hm hc hform hsel hlink, fun hsel hlink hroom => ?_⟩
    · exact exec_program_link hs hm hc hform hsel (by rw [hmuted]; exact (nomatch ·))
    · intro h steps zones record u hle
      rw [exec_program_queued hs hm hc hform hsel hlink hroom, State.enqueue, YardModel.requiredUnion_steps]
      have hnext : handleAfter (s.holding tag req).newHandle = if h = 255 then 1 else h + 1 := handleAfter_eq hle
      rw [hnext]
      rfl
  · intro isSwitch
    exact ⟨PointKind.isSwitch_iff, fun p => YardModel.point?_eq_some h, YardModel.isSwitch_iff h, YardModel.isLocalSwitch_iff h,
      YardModel.mem_required h⟩

end Sys2Proof.Machine
end


section
/-! PROOFS. Bay inputs (sections 2.1 and 2.2): raw lines and the readings they give. -/
namespace Sys2Proof.Machine

/-! ### Lines and their levels (R8, R19) -/

/-- A numbered input changed: that input has the new value, the others theirs. -/
theorem getD_setIfInBounds {α : Type} {k : Nat} (v : Vector α k) {n m : Nat} (hn : 1 ≤ n ∧ n ≤ k) (hm : 1 ≤ m) (x d : α) :
    ((v.setIfInBounds (n - 1) x)[m - 1]?).getD d = if m = n then x else (v[m - 1]?).getD d := by
  rw [Vector.getElem?_setIfInBounds]
  by_cases heq : m = n
  · subst heq
    rw [if_pos rfl, if_pos rfl, if_pos (by omega)]
    rfl
  · rw [if_neg (by omega), if_neg heq]

theorem inRange_iff (n x : Nat) : inRange n x = true ↔ 1 ≤ x ∧ x ≤ n := by
  simp [inRange]

section
variable (l : Lines) (made : Bool) {other : Line} (ho : other.wellFormed = true)
include ho

theorem level_change_contactOpen {n : Nat} (hn : 1 ≤ n ∧ n ≤ 24) :
    (l.change (.contactOpen n) made).level other = if other = .contactOpen n then made else l.level other := by
  rw [Lines.change, if_neg (by omega)]
  cases other with
  | contactOpen m =>
    have hm := (inRange_iff 24 m).1 ho
    simp only [Lines.level, Lines.pair, getD_setIfInBounds l.contacts hn hm.1, Line.contactOpen.injEq]
    split <;> rfl
  | contactClosed m =>
    have hm := (inRange_iff 24 m).1 ho
    simp only [Lines.level, Lines.pair, getD_setIfInBounds l.contacts hn hm.1, reduceCtorEq, if_false]
    split
    next h => rw [h]
    next => rfl
  | _ => rfl

theorem level_change_contactClosed {n : Nat} (hn : 1 ≤ n ∧ n ≤ 24) :
    (l.change (.contactClosed n) made).level other = if other = .contactClosed n then made else l.level other := by
  rw [Lines.change, if_neg (by omega)]
  cases other with
  | contactClosed m =>
    have hm := (inRange_iff 24 m).1 ho
    simp only [Lines.level, Lines.pair, getD_setIfInBounds l.contacts hn hm.1, Line.contactClosed.injEq]
    split <;> rfl
  | contactOpen m =>
    have hm := (inRange_iff 24 m).1 ho
    simp only [Lines.level, Lines.pair, getD_setIfInBounds l.contacts hn hm.1, reduceCtorEq, if_false]
    split
    next h => rw [h]
    next => rfl
  | _ => rfl

theorem level_change_presence {n : Nat} (hn : 1 ≤ n ∧ n ≤ 4) :
    (l.change (.presence n) made).level other = if other = .presence n then made else l.level other := by
  rw [Lines.change, if_neg (by omega)]
  cases other with
  | presence m =>
    have hm := (inRange_iff 4 m).1 ho
    simp only [Lines.level, Lines.volt, getD_setIfInBounds l.voltages hn hm.1, Line.presence.injEq]
    split <;> rfl
  | healthy m =>
    have hm := (inRange_iff 4 m).1 ho
    simp only [Lines.level, Lines.volt, getD_setIfInBounds l.voltages hn hm.1, reduceCtorEq, if_false]
    split
    next h => rw [h]
    next => rfl
  | _ => rfl

theorem level_change_healthy {n : Nat} (hn : 1 ≤ n ∧ n ≤ 4) :
    (l.change (.healthy n) made).level other = if other = .healthy n then made else l.level other := by
  rw [Lines.change, if_neg (by omega)]
  cases other with
  | healthy m =>
    have hm := (inRange_iff 4 m).1 ho
    simp only [Lines.level, Lines.volt, getD_setIfInBounds l.voltages hn hm.1, Line.healthy.injEq]
    split <;> rfl
  | presence m =>
    have hm := (inRange_iff 4 m).1 ho
    simp only [Lines.level, Lines.volt, getD_setIfInBounds l.voltages hn hm.1, reduceCtorEq, if_false]
    split
    next h => rw [h]
    next => rfl
  | _ => rfl

theorem level_change_binary {n : Nat} (hn : 1 ≤ n ∧ n ≤ 8) :
    (l.change (.binary n) made).level other = if other = .binary n then made else l.level other := by
  rw [Lines.change, if_neg (by omega)]
  cases other with
  | binary m =>
    have hm := (inRange_iff 8 m).1 ho
    simp only [Lines.level, Lines.bin, getD_setIfInBounds l.binaries hn hm.1, Line.binary.injEq]
  | _ => rfl

/-- A line made or not has that level, and every other line its own. -/
theorem level_change {line : Line} (hl : line.wellFormed = true) :
    (l.change line made).level other = if other = line then made else l.level other := by
  cases line with
  | contactOpen n => exact level_change_contactOpen l made ho ((inRange_iff 24 n).1 hl)
  | contactClosed n => exact level_change_contactClosed l made ho ((inRange_iff 24 n).1 hl)
  | presence n => exact level_change_presence l made ho ((inRange_iff 4 n).1 hl)
  | healthy n => exact level_change_healthy l made ho ((inRange_iff 4 n).1 hl)
  | binary n => exact level_change_binary l made ho ((inRange_iff 8 n).1 hl)
  | selRemote => cases other <;> rfl
  | selLocal => cases other <;> rfl

end

/-! ### Readings (R20 to R23) -/

theorem reading_switch (l : Lines) {k : PointKind} (hk : k.isSwitch = true) (n : Nat) : l.reading k n =
    match l.level (.contactOpen n), l.level (.contactClosed n) with
      | true, false => .opened | false, true => .closed | false, false => .travel | true, true => .bad := by
  have hpair : l.reading k n = (l.pair n).reading := by
    rcases (PointKind.isSwitch_iff k).1 hk with rfl | rfl | rfl <;> rfl
  rw [hpair]
  show _ = match (l.pair n).opened, (l.pair n).closed with
    | true, false => PointValue.opened | false, true => .closed | false, false => .travel | true, true => .bad
  obtain ⟨o, c⟩ := l.pair n
  cases o <;> cases c <;> rfl

theorem reading_voltage (l : Lines) (n : Nat) : l.reading .voltage n =
    match l.level (.healthy n), l.level (.presence n) with
      | true, true => .present | true, false => .absent | false, _ => .bad := by
  show (l.volt n).reading = match (l.volt n).healthy, (l.volt n).presence with
    | true, true => PointValue.present | true, false => .absent | false, _ => .bad
  obtain ⟨p, h⟩ := l.volt n
  cases p <;> cases h <;> rfl

theorem reading_binary (l : Lines) (n : Nat) : l.reading .binary n = if l.level (.binary n) = true then .high else .low := rfl

theorem selectorReading_eq (l : Lines) :
    l.selectorReading = if l.selRemote = true ∧ l.selLocal = false then .remote else .atBay := by
  rw [Lines.selectorReading]
  cases l.selRemote <;> cases l.selLocal <;> rfl

/-! ### The point that a line feeds (R8, R24) -/

/-- The line belongs to the input that the settings name, by the kind of their point. -/
def YardModel.feeds (m : YardModel) (line : Line) (d : LocalDef) : Prop :=
  ∃ p ∈ m.points, p.id = d.point ∧ match line with
    | .contactOpen n | .contactClosed n => p.kind.isSwitch = true ∧ d.input = n
    | .presence n | .healthy n => p.kind = .voltage ∧ d.input = n
    | .binary n => p.kind = .binary ∧ d.input = n
    | .selRemote | .selLocal => False

theorem lineFeeds_iff (line : Line) (k : PointKind) (input : Nat) : lineFeeds line k input = true ↔ match line with
    | .contactOpen n | .contactClosed n => k.isSwitch = true ∧ input = n
    | .presence n | .healthy n => k = .voltage ∧ input = n
    | .binary n => k = .binary ∧ input = n
    | .selRemote | .selLocal => False := by
  cases line <;> simp only [lineFeeds, Bool.and_eq_true, beq_iff_eq, reduceCtorEq] <;>
    exact and_congr_right' eq_comm

/-- What the search of the settings asks of each record. -/
def YardModel.feedsB (m : YardModel) (line : Line) (d : LocalDef) : Bool :=
  match m.point? d.point with
  | some p => lineFeeds line p.kind d.input
  | none => false

section
variable {m : YardModel} (line : Line) (hp : (m.points.map (·.id)).Nodup)
include hp

theorem YardModel.feedsB_iff (d : LocalDef) : m.feedsB line d = true ↔ m.feeds line d := by
  simp only [YardModel.feeds, ← lineFeeds_iff, ← YardModel.exists_point? hp, YardModel.feedsB]
  cases m.point? d.point <;> simp

theorem YardModel.fedBy_eq_none : m.fedBy line = none ↔ ∀ d ∈ m.locals, ¬ m.feeds line d := by
  show (m.locals.find? (m.feedsB line)).map (·.point) = none ↔ _
  simp [← YardModel.feedsB_iff line hp]

theorem YardModel.fedBy_eq_some (hone : ∀ d ∈ m.locals, ∀ e ∈ m.locals, m.feeds line d → m.feeds line e → d = e) (id : Nat) :
    m.fedBy line = some id ↔ ∃ d ∈ m.locals, m.feeds line d ∧ d.point = id := by
  show (m.locals.find? (m.feedsB line)).map (·.point) = some id ↔ _
  rw [Option.map_eq_some_iff]
  constructor
  · rintro ⟨d, hd, rfl⟩
    exact ⟨d, List.mem_of_find?_eq_some hd, (YardModel.feedsB_iff line hp d).1 (List.find?_some hd), rfl⟩
  · rintro ⟨d, hd, hfeeds, rfl⟩
    have hfound : (m.locals.find? (m.feedsB line)).isSome = true :=
      List.find?_isSome.2 ⟨d, hd, (YardModel.feedsB_iff line hp d).2 hfeeds⟩
    obtain ⟨e, he⟩ := Option.isSome_iff_exists.1 hfound
    have hfeeds' := (YardModel.feedsB_iff line hp e).1 (List.find?_some he)
    obtain rfl := hone d hd e (List.mem_of_find?_eq_some he) hfeeds hfeeds'
    exact ⟨d, he, rfl⟩

end

/-! ### RAW_INPUT_CHANGE (R19, R24) -/

/-- The state with a line changed, no reading formed yet. -/
def State.withLine (s : State) (line : Line) (made : Bool) : State :=
  { s with bay := { s.bay with lines := s.bay.lines.change line made } }

theorem State.lineChange_eq {s : State} {line : Line} {made : Bool} (h : s.bay.lines.level line ≠ made) :
    s.lineChange line made =
      if s.working = true then (s.withLine line made).formReading line else s.withLine line made := if_neg h

/-- A change of one of the selector's lines forms the selector's reading (R23). -/
theorem State.formReading_selector {s : State} {line : Line} (h : line = .selRemote ∨ line = .selLocal) :
    s.formReading line = { s with bay := { s.bay with
      selector := s.bay.selector.read s.bay.lines.selectorReading s.now } } := by
  rcases h with rfl | rfl <;> rfl

/-- A change of another line forms the reading of the point that it feeds. -/
theorem State.formReading_point {s : State} {line : Line} (h1 : line ≠ .selRemote) (h2 : line ≠ .selLocal) :
    s.formReading line = match s.ctl.model.fedBy line with
      | some id => s.mapPoint id fun p => p.read (s.rawReading id) s.now
      | none => s := by
  cases line with
  | selRemote => exact absurd rfl h1
  | selLocal => exact absurd rfl h2
  | _ => rfl

/-- A reading reads the model and the lines alone. -/
theorem State.rawReading_congr {s t : State} (hc : t.ctl = s.ctl) (hl : t.bay.lines = s.bay.lines) (id : Nat) :
    t.rawReading id = s.rawReading id := by
  rw [State.rawReading, State.rawReading, hc, hl]

theorem State.formReading_lines (s : State) (line : Line) : (s.formReading line).bay.lines = s.bay.lines := by
  by_cases hsel : line = .selRemote ∨ line = .selLocal
  · rw [State.formReading_selector hsel]
  · obtain ⟨h1, h2⟩ := not_or.1 hsel
    rw [State.formReading_point h1 h2]
    cases s.ctl.model.fedBy line <;> rfl

theorem State.lineChange_lines {s : State} {line : Line} {made : Bool} (h : s.bay.lines.level line ≠ made) :
    (s.lineChange line made).bay.lines = s.bay.lines.change line made := by
  rw [State.lineChange_eq h]
  split
  · exact State.formReading_lines _ _
  · rfl

theorem State.lineChange_point {s : State} {line : Line} {made : Bool} {id : Nat} (h : s.bay.lines.level line ≠ made)
    (hw : s.working = true) (h1 : line ≠ .selRemote) (h2 : line ≠ .selLocal) (hfed : s.ctl.model.fedBy line = some id) :
    s.lineChange line made = { s with bay := { s.bay with
      lines := s.bay.lines.change line made
      points := s.bay.points.map fun p => if p.id = id then p.read ((s.withLine line made).rawReading id) s.now else p } } := by
  have hfed' : (s.withLine line made).ctl.model.fedBy line = some id := hfed
  rw [State.lineChange_eq h, if_pos hw, State.formReading_point h1 h2, hfed']
  exact State.mapPoint_eq _ _ _

/-- Settles O34: the line's level and the reading it forms, the readings by their kinds, and the point that a line
feeds. -/
theorem rawLineFormsAReading : Obligations.RawLineFormsAReading := by
  refine ⟨fun s line made hl => ⟨fun hsame => ?_, fun hdiff => ⟨s.lineChange line made, rfl, ?_, fun other ho hne => ?_,
    fun hw => ?_, fun hw hsel => ?_, fun hw h1 h2 => ⟨fun hfed => ?_, fun id hfed => ?_⟩⟩⟩,
    fun l k n => ⟨fun hk => reading_switch l hk n, ?_, ?_⟩, selectorReading_eq, fun s id p d hp hd => ?_,
    fun m line hp hd => ?_⟩
  · exact congrArg Host.Outcome.next (if_pos hsame)
  · rw [State.lineChange_lines hdiff, level_change _ _ hl hl, if_pos rfl]
  · rw [State.lineChange_lines hdiff, level_change _ _ ho hl, if_neg hne]
  · rw [State.lineChange_lines hdiff, State.lineChange_eq hdiff, if_neg (by rw [hw]; exact Bool.false_ne_true)]
    rfl
  · rw [State.lineChange_lines hdiff, ← selectorReading_eq, State.lineChange_eq hdiff, if_pos hw,
      State.formReading_selector hsel]
    rfl
  · have hfed' : (s.withLine line made).ctl.model.fedBy line = none := hfed
    rw [State.lineChange_lines hdiff, State.lineChange_eq hdiff, if_pos hw, State.formReading_point h1 h2, hfed']
    rfl
  · have hform := State.lineChange_point hdiff hw h1 h2 hfed
    have hreading : (s.lineChange line made).rawReading id = (s.withLine line made).rawReading id :=
      State.rawReading_congr (by rw [hform]; rfl) (State.lineChange_lines hdiff) id
    rw [hreading, State.lineChange_lines hdiff, hform]
    rfl
  · rintro rfl
    exact reading_voltage l n
  · rintro rfl
    exact reading_binary l n
  · refine ⟨?_, ?_, ?_, ?_⟩
    · rw [State.rawReading, hp, hd]
    · rw [State.rawPair, hd]; rfl
    · rw [State.runTime, hd]
    · rw [State.recovery, hd]
  · intro feeds
    refine ⟨fun id d => ⟨mem_of_find_key, ?_⟩, YardModel.fedBy_eq_none line hp, YardModel.fedBy_eq_some line hp⟩
    rintro ⟨hmem, rfl⟩
    exact find_of_mem_nodup hd hmem

end Sys2Proof.Machine
end


section
/-! PROOFS. Filtered values of local points (sections 2.1 to 2.3): the undriven change, the supervised drive and the
run-time and stuck timers. -/
namespace Sys2Proof.Machine

/-! ### Records changed by point number -/

/-- Two changes of one point's record are one. -/
theorem State.pointSet_pointSet (s : State) (id : Nat) {f : LocalPoint → LocalPoint} (g : LocalPoint → LocalPoint)
    (hf : ∀ q, (f q).id = q.id) : (s.pointSet id f).pointSet id g = s.pointSet id fun q => g (f q) := by
  unfold State.pointSet
  dsimp only
  rw [List.map_map]
  congr 3
  funext q
  by_cases h : q.id = id
  · simp only [Function.comp_apply, if_pos h, hf]
  · simp only [Function.comp_apply, if_neg h]

/-- An event and a record's change do not touch each other. -/
theorem State.pointSet_event (s : State) (id : Nat) (f : LocalPoint → LocalPoint) (b : EventBody) :
    (s.pointSet id f).event b = (s.event b).pointSet id f := by
  have hnow : (s.pointSet id f).now = s.now := rfl
  have hport : (s.pointSet id f).port = s.port := rfl
  unfold State.event
  rw [hnow, hport]
  split <;> rfl

/-! ### The filter timer of a point (R19, R25) -/

/-- The point's record with its pending reading as the filtered value. -/
def State.filtered (s : State) (id : Nat) (r : PointValue) : State :=
  s.pointSet id fun q => { q with value := some r, pending := none }

theorem exec_filterTimer_before {s : State} {id : Nat} {p : LocalPoint} {r : PendingReading}
    (hp : s.localPoint? id = some p) (hr : p.pending = some r)
    (hearly : s.reached (r.since + BitVec.ofNat 32 s.params.filterTime) = false) :
    exec (.filterTimerExpiry (.point id)) s = .next s := by
  have hstay : s.filterPoint id = s := by
    unfold State.filterPoint
    rw [hp]; dsimp only
    rw [hr]; dsimp only
    exact if_neg (by rw [after, hearly]; exact Bool.false_ne_true)
  show execFilterTimerExpiry (.point id) s = _
  rw [execFilterTimerExpiry, hstay, ite_self]

theorem exec_filterTimer_reached {s : State} {id : Nat} {p : LocalPoint} {r : PendingReading} (hw : s.working = true)
    (hp : s.localPoint? id = some p) (hr : p.pending = some r)
    (hlate : s.reached (r.since + BitVec.ofNat 32 s.params.filterTime) = true) :
    exec (.filterTimerExpiry (.point id)) s = .next ((s.filtered id r.reading).localChange id p.value r.reading) := by
  have htaken : s.filterPoint id = (s.filtered id r.reading).localChange id p.value r.reading := by
    unfold State.filterPoint State.filtered
    rw [hp, ← State.mapPoint_eq]; dsimp only
    rw [hr]; dsimp only
    exact if_pos (by rw [after, hlate])
  show execFilterTimerExpiry (.point id) s = _
  rw [execFilterTimerExpiry, if_pos hw, ← htaken]

/-! ### A point that is not under drive (R26, R27) -/

theorem State.underDrive?_eq_none {s : State} {id : Nat} (h : ∀ d, s.bay.drive = some d → d.switch ≠ id) :
    s.underDrive? id = none := by
  unfold State.underDrive?
  cases hd : s.bay.drive with
  | none => rfl
  | some d => exact if_neg (h d hd)

theorem State.localChange_other {s : State} {id : Nat} (h : s.ctl.model.isSwitch id = false) (old : Option PointValue)
    (v : PointValue) : s.localChange id old v = s.handOver id := by
  rw [State.localChange, if_neg (by rw [h]; exact Bool.false_ne_true)]

theorem State.localChange_undriven {s : State} {id : Nat} (h : s.ctl.model.isSwitch id = true)
    (hd : s.underDrive? id = none) (old : Option PointValue) (v : PointValue) :
    s.localChange id old v = ((s.uncommanded id old v).stuckRule id v).handOver id := by
  rw [State.localChange, if_pos h, hd]

theorem State.localChange_driven {s : State} {id : Nat} {d : DriveRecord} (h : s.ctl.model.isSwitch id = true)
    (hd : s.underDrive? id = some d) (old : Option PointValue) (v : PointValue) :
    s.localChange id old v = s.supervise d v := by
  rw [State.localChange, if_pos h, hd]

/-- The event of a change from a value; a first value has none. -/
def changeEvents (id : Nat) (old : Option PointValue) (v : PointValue) : List EventBody :=
  match old with
  | some o => [.uncommandedChange id o v]
  | none => []

theorem State.uncommanded_eq (s : State) (id : Nat) (old : Option PointValue) (v : PointValue) :
    s.uncommanded id old v = s.raise (changeEvents id old v) := by
  cases old <;> rfl

/-- A switch's filtered value and what follows it are one change of its record, after the event. -/
theorem State.filtered_stuckRule (s : State) (id : Nat) (old : Option PointValue) (v : PointValue) :
    ((s.filtered id v).uncommanded id old v).stuckRule id v =
      (s.raise (changeEvents id old v)).pointSet id fun q =>
        { q with
          value := some v
          pending := none
          stuck := if v = .travel ∧ q.suspect = false then some (s.now + BitVec.ofNat 32 (s.runTime id)) else none } := by
  have hevent : (s.filtered id v).uncommanded id old v = (s.raise (changeEvents id old v)).filtered id v := by
    cases old with
    | none => rfl
    | some o => exact State.pointSet_event _ _ _ _
  have hnow : ((s.raise (changeEvents id old v)).filtered id v).now = s.now := by
    unfold State.filtered State.pointSet State.now
    simp
  have hrun : ((s.raise (changeEvents id old v)).filtered id v).runTime id = s.runTime id := by
    unfold State.filtered State.pointSet State.runTime
    simp
  rw [hevent, State.stuckRule, hnow, hrun, State.mapPoint_eq, State.filtered, State.pointSet_pointSet]
  · rfl
  · exact fun _ => rfl

/-- Settles O35: before the filter time nothing; then the value, a switch's event and stuck timer, and the update. -/
theorem undrivenChangeIsHandled : Obligations.UndrivenChangeIsHandled := by
  intro s id p r hw hp hr hd
  obtain ⟨hmem, hid⟩ := mem_of_find_key hp
  refine ⟨hmem, hid, exec_filterTimer_before hp hr, fun hlate => ⟨fun hother => ?_, fun hswitch => ?_⟩⟩
  · rw [exec_filterTimer_reached hw hp hr hlate, State.localChange_other (s := s.filtered id r.reading) hother]
    rfl
  · intro reported
    have hraised : s.raise (changeEvents id p.value r.reading) = reported := by
      dsimp only [reported]
      cases p.value <;> rfl
    rw [exec_filterTimer_reached hw hp hr hlate, State.localChange_undriven (s := s.filtered id r.reading) hswitch
      (State.underDrive?_eq_none hd), State.filtered_stuckRule, hraised]

/-! ### The driven switch (R30, R32, R33) -/

theorem State.underDrive?_self {s : State} {d : DriveRecord} (h : s.bay.drive = some d) :
    s.underDrive? d.switch = some d := by
  rw [State.underDrive?, h]
  exact if_pos rfl

theorem State.supervise_target (s : State) (d : DriveRecord) {v : PointValue} (h : v = d.direction.value) :
    s.supervise d v = s.completeDrive d.switch := if_pos h

theorem State.supervise_bad (s : State) (d : DriveRecord) : s.supervise d .bad =
    (s.afterFailure .badPosition d.switch (some (d.handle, d.step))).handOver d.switch := by
  rw [State.supervise, if_neg (by cases d.direction <;> exact (nomatch ·)), if_pos rfl, State.failSwitch_eq]

theorem State.supervise_wrongEnd (s : State) {d : DriveRecord} {v : PointValue} (h : v = d.direction.startEnd)
    (hleft : d.leftStart = true) : s.supervise d v =
      (s.afterFailure .wrongEnd d.switch (some (d.handle, d.step))).handOver d.switch := by
  subst h
  rw [State.supervise, if_neg (by cases d.direction <;> exact (nomatch ·)),
    if_neg (by cases d.direction <;> exact (nomatch ·)), if_pos ⟨rfl, hleft⟩, State.failSwitch_eq]

theorem State.supervise_goesOn (s : State) {d : DriveRecord} {v : PointValue} (hv : v ≠ d.direction.value)
    (hbad : v ≠ .bad) (hend : ¬ (v = d.direction.startEnd ∧ d.leftStart = true)) :
    s.supervise d v = (s.setBay { s.bay with drive := some (d.left v) }).handOver d.switch := by
  rw [State.supervise, if_neg hv, if_neg hbad, if_neg hend]

theorem DriveRecord.left_start {d : DriveRecord} {v : PointValue} (h : v = d.direction.startEnd) : d.left v = d := by
  rw [DriveRecord.left, h, bne_self_eq_false, Bool.or_false]

theorem DriveRecord.left_away {d : DriveRecord} {v : PointValue} (h : v ≠ d.direction.startEnd) :
    d.left v = { d with leftStart := true } := by
  rw [DriveRecord.left, bne_iff_ne.2 h, Bool.or_true]

/-- A completed drive after the filtered value: the record takes value and time of completion at once. -/
theorem State.filtered_completeDrive (s : State) (id : Nat) (v : PointValue) :
    (s.filtered id v).completeDrive id =
      (({ s with bay := { s.bay with drive := none, report := some .completed } }).pointSet id fun q =>
        { q with value := some v, pending := none, completion := some s.now }).handOver id := by
  have hone := State.pointSet_pointSet { s with bay := { s.bay with drive := none, report := some .completed } } id
    (f := fun q => { q with value := some v, pending := none }) (fun q => { q with completion := some s.now })
    (fun _ => rfl)
  rw [State.completeDrive, ← hone, State.mapPoint_eq]
  rfl

/-- Settles O36: by the filtered value, the cases of `supervise` in the order of R30, R33 and R32. -/
theorem driveIsSupervised : Obligations.DriveIsSupervised := by
  intro s p r d hw hd hswitch hp hr hlate v
  have hstep : exec (.filterTimerExpiry (.point d.switch)) s = .next (v.supervise d r.reading) := by
    rw [exec_filterTimer_reached hw hp hr hlate, State.localChange_driven (s := s.filtered d.switch r.reading) hswitch
      (State.underDrive?_self (s := s.filtered d.switch r.reading) hd)]
    rfl
  refine ⟨?_, ?_, fun l hl => ?_, fun hv => ?_, fun hbad => ?_, fun hend hleft => ?_, fun hv hbad hend hleft => ?_,
    fun hv hbad hend => ?_⟩
  · cases d.direction <;> rfl
  · cases d.direction <;> rfl
  · rw [State.coils, hd]; dsimp only
    rw [hl]
  · rw [hstep, State.supervise_target v d hv, ← State.filtered_completeDrive]
    rfl
  · rw [hstep, hbad, State.supervise_bad]
  · rw [hstep, State.supervise_wrongEnd v hend hleft]
  · rw [hstep, State.supervise_goesOn v hv hbad fun h => Bool.false_ne_true (hleft.symm.trans h.2),
      DriveRecord.left_start hend, ← hd]
    rfl
  · rw [hstep, State.supervise_goesOn v hv hbad fun h => hend h.1, DriveRecord.left_away hend]
    rfl

/-! ### The run-time and stuck timers (R27, R31) -/

theorem State.runExpiry_none {s : State} (h : s.bay.drive = none) : s.runExpiry = s := by
  rw [State.runExpiry, h]

theorem State.runExpiry_some {s : State} {d : DriveRecord} (h : s.bay.drive = some d) :
    s.runExpiry = if s.reached d.expiry then
      (s.afterFailure .travelTimeout d.switch (some (d.handle, d.step))).handOver d.switch else s := by
  rw [State.runExpiry, h, ← State.failSwitch_eq]

theorem State.stuckExpiry_none {s : State} {id : Nat} {p : LocalPoint} (hp : s.localPoint? id = some p)
    (h : p.stuck = none) : s.stuckExpiry id = s := by
  rw [State.stuckExpiry, hp, Option.bind_some, h]

theorem State.stuckExpiry_some {s : State} {id : Nat} {p : LocalPoint} {t : Time} (hp : s.localPoint? id = some p)
    (h : p.stuck = some t) : s.stuckExpiry id = if s.reached t then
      (s.afterFailure .stuckIntermediate id none).handOver id else s := by
  rw [State.stuckExpiry, hp, Option.bind_some, h, ← State.failSwitch_eq]

/-- Settles O37: without the timer or before its time nothing, at its time the failure of R34. -/
theorem runAndStuckTimersFail : Obligations.RunAndStuckTimersFail := by
  intro s hw
  have hrun : exec .runTimeExpiry s = .next s.runExpiry := congrArg Host.Outcome.next (if_pos hw)
  have hstuck : ∀ id, exec (.stuckTimerExpiry id) s = .next (s.stuckExpiry id) :=
    fun id => congrArg Host.Outcome.next (if_pos hw)
  refine ⟨fun hd => ?_, fun d hd => ⟨fun hearly => ?_, fun hlate => ?_⟩, fun id p hp => ⟨fun hnone => ?_,
    fun t ht => ⟨fun hearly => ?_, fun hlate => ?_⟩⟩⟩
  · rw [hrun, State.runExpiry_none hd]
  · rw [hrun, State.runExpiry_some hd, hearly, if_neg Bool.false_ne_true]
  · rw [hrun, State.runExpiry_some hd, if_pos hlate]
  · rw [hstuck, State.stuckExpiry_none hp hnone]
  · rw [hstuck, State.stuckExpiry_some hp ht, hearly, if_neg Bool.false_ne_true]
  · rw [hstuck, State.stuckExpiry_some hp ht, if_pos hlate]

end Sys2Proof.Machine
end


section
/-! PROOFS. Local updates of the image and the publisher's schedule (chapters 3 and 7): one change a local update, and the
bulletins that fall due. -/
namespace Sys2Proof.Machine

/-! ### The point list (R111, R180) -/

/-- The items of the unit's own entries that have a value, as sections 12.2 and 12.5 spell them. -/
theorem State.pointList_eq (s : State) : s.pointList = s.image.entries.filterMap fun e =>
    if e.owner = s.unit then
      e.value.map fun y => (⟨e.id, y.code, if e.kind.isSwitch = true ∧ e.suspect = true then 1 else 0⟩ : Item)
    else none := by
  unfold State.pointList
  simp only [Bool.and_eq_true]

/-! ### One local update (R41, R53) -/

/-- The image after a local update: the entry written, the zones of a changed switch moved. -/
def State.written (s : State) (id : Nat) (e : PointEntry) (v : Option PointValue) (mark : Bool) : State :=
  { s with image := { s.image with
    entries := s.image.entries.map fun x =>
      if x.id = id then { x with value := v, suspect := mark, presence := .held } else x
    moves := s.image.moves.map fun m =>
      if e.value ≠ v ∧ e.kind.isSwitch = true ∧ m.zone ∈ s.ctl.model.required id then { m with time := some s.now } else m } }

theorem State.mapEntry_eq (s : State) (id : Nat) (f : PointEntry → PointEntry) :
    s.mapEntry id f = { s with image := { s.image with
      entries := s.image.entries.map fun x => if x.id = id then f x else x } } := by
  unfold State.mapEntry State.setImage modifyWhere
  simp only [beq_iff_eq]

theorem State.zoneMovement_eq (s : State) (id : Nat) :
    s.zoneMovement id = { s with image := { s.image with
      moves := s.image.moves.map fun m => if m.zone ∈ s.ctl.model.required id then { m with time := some s.now } else m } } := by
  unfold State.zoneMovement State.setImage modifyWhere
  simp only [List.contains_iff_mem]

theorem State.written_moved (s : State) {id : Nat} {e : PointEntry} {v : Option PointValue} (mark : Bool)
    (h : e.value ≠ v ∧ e.kind.isSwitch = true) :
    (s.mapEntry id fun x => { x with value := v, suspect := mark, presence := .held }).zoneMovement id =
      s.written id e v mark := by
  rw [State.zoneMovement_eq, State.mapEntry_eq]
  simp only [State.written, h, true_and, ne_eq, not_false_eq_true]
  rfl

theorem State.written_still (s : State) {id : Nat} {e : PointEntry} {v : Option PointValue} (mark : Bool)
    (h : ¬ (e.value ≠ v ∧ e.kind.isSwitch = true)) :
    (s.mapEntry id fun x => { x with value := v, suspect := mark, presence := .held }) = s.written id e v mark := by
  have hmoves : (s.image.moves.map fun m : ZoneMove =>
      if e.value ≠ v ∧ e.kind.isSwitch = true ∧ m.zone ∈ s.ctl.model.required id then { m with time := some s.now } else m) =
      s.image.moves :=
    (List.map_congr_left fun m _ => if_neg fun hm => h ⟨hm.1, hm.2.1⟩).trans (List.map_id _)
  rw [State.mapEntry_eq, State.written, hmoves]

theorem PointEntry.changedBy_iff (e : PointEntry) (v : Option PointValue) (mark : Bool) :
    e.changedBy v mark = true ↔ e.value ≠ v ∨ e.suspect ≠ mark := by
  rw [PointEntry.changedBy, Bool.or_eq_true, bne_iff_ne, bne_iff_ne]

/-- The update handed over writes the entry, and a change of value or mark is published. -/
theorem State.handOver_eq {s : State} {id : Nat} {p : LocalPoint} {e : PointEntry} (hp : s.localPoint? id = some p)
    (he : s.entry? id = some e) : s.handOver id =
      if e.value ≠ p.value ∨ e.suspect ≠ p.suspect then (s.written id e p.value p.suspect).publishChange
      else s.written id e p.value p.suspect := by
  have hwritten : (if e.value != p.value && e.kind.isSwitch then
      (s.mapEntry id fun x => { x with value := p.value, suspect := p.suspect, presence := .held }).zoneMovement id
      else s.mapEntry id fun x => { x with value := p.value, suspect := p.suspect, presence := .held }) =
      s.written id e p.value p.suspect := by
    simp only [Bool.and_eq_true, bne_iff_ne]
    split
    next hmoved => exact s.written_moved _ hmoved
    next hstill => exact s.written_still _ hstill
  rw [State.handOver, hp]
  show s.localUpdate id p.value p.suspect = _
  rw [State.localUpdate, he]
  dsimp only
  rw [hwritten]
  simp only [PointEntry.changedBy_iff]

theorem State.publishChange_none {s : State} (h : s.pub.stateNo = none) : s.publishChange = s := by
  rw [State.publishChange, h]

theorem State.publishChange_some {s : State} {n : StateNo} (h : s.pub.stateNo = some n) :
    s.publishChange = s.countState (n + 1) := by
  rw [State.publishChange, h]

theorem State.handOver_unpublished {s : State} {id : Nat} {p : LocalPoint} {e : PointEntry}
    (hp : s.localPoint? id = some p) (he : s.entry? id = some e)
    (h : e.value = p.value ∧ e.suspect = p.suspect ∨ s.pub.stateNo = none) :
    s.handOver id = s.written id e p.value p.suspect := by
  rw [State.handOver_eq hp he]
  rcases h with ⟨hv, hm⟩ | hnone
  · rw [if_neg (by rintro (h | h); exacts [h hv, h hm])]
  · rw [State.publishChange_none (s := s.written id e p.value p.suspect) hnone, ite_self]

theorem State.handOver_published {s : State} {id : Nat} {p : LocalPoint} {e : PointEntry}
    (hp : s.localPoint? id = some p) (he : s.entry? id = some e) (h : e.value ≠ p.value ∨ e.suspect ≠ p.suspect)
    {n : StateNo} (hn : s.pub.stateNo = some n) :
    s.handOver id = (s.written id e p.value p.suspect).countState (n + 1) := by
  rw [State.handOver_eq hp he, if_pos h, State.publishChange_some (s := s.written id e p.value p.suspect) hn]

/-- Settles O39: the entry and the moves written, and a change counted, with its bulletin where the schedule runs. -/
theorem localUpdateIsOneChange : Obligations.LocalUpdateIsOneChange := by
  intro s id p e hp he v published
  have hpublished : v.pointList = published := v.pointList_eq
  refine ⟨State.handOver_unpublished hp he, fun hchange n hn => ?_⟩
  refine ⟨fun hoff => ?_, fun hrun hact => ?_⟩
  · have hquiet : ¬ (v.running = true ∧ v.link.mode = .active) := by
      rintro ⟨hrun, hact⟩
      rcases hoff with hstopped | hmuted
      · exact Bool.false_ne_true (hstopped.symm.trans hrun)
      · exact LinkMode.noConfusion (hmuted.symm.trans hact)
    rw [State.handOver_published hp he hchange hn]
    exact State.countState_off hquiet _
  · rw [State.handOver_published hp he hchange hn, ← hpublished]
    exact State.countState_on (s := v) ⟨hrun, hact⟩ _

/-! ### A bulletin falls due (R113) -/

theorem exec_bulletinDue_due {s : State} {t : Time} (h : s.pub.stage = .due t) :
    exec .bulletinDue s = .next (if s.running = true ∧ s.reached t = true then s.publishDue else s) := by
  show execBulletinDue s = _
  rw [execBulletinDue, h]

theorem exec_bulletinDue_none {s : State} (h : ∀ t, s.pub.stage ≠ .due t) : exec .bulletinDue s = .next s := by
  show execBulletinDue s = _
  rw [execBulletinDue]
  split
  next t ht => exact absurd ht (h t)
  next => rfl

/-- The due bulletin: its repeat number, its interval and what it carries. -/
theorem State.publishDue_eq {s : State} {n : StateNo} (hn : s.pub.stateNo = some n) :
    s.publishDue =
      let r := if s.pub.repeatNo = 255 then 255 else s.pub.repeatNo + 1
      let i := min (2 * s.pub.interval) s.params.heartbeat
      { s with pub := { s.pub with repeatNo := r, interval := i, stage := .offered n r } }.offer
        (.bulletin n r (2 * i + s.params.margin) s.pointList) := by
  have hnumber : s.stateNumber = n := by rw [State.stateNumber, hn]; rfl
  rw [State.publishDue, hnumber, ← hnumber]
  rfl

/-- Settles O40: the three answers of BULLETIN_DUE, the point list and the codes of section 12.5. -/
theorem bulletinFallsDue : Obligations.BulletinFallsDue := by
  refine fun s hrun => ⟨fun t ht hearly => ?_, exec_bulletinDue_none, fun t n ht hlate hn => ?_, s.pointList_eq, fun y => ?_⟩
  · rw [exec_bulletinDue_due ht, if_neg fun h => Bool.false_ne_true (hearly.symm.trans h.2)]
  · intro r i
    rw [exec_bulletinDue_due ht, if_pos ⟨hrun, hlate⟩, State.publishDue_eq hn]
  · cases y <;> rfl

end Sys2Proof.Machine
end


section
/-! PROOFS. Frames received (sections 3.3, 3.4, 6.5 and 12.2): which go no further, what a bulletin makes of the image, and
the expiry of peers and stored times. -/
namespace Sys2Proof.Machine

/-! ### The steps of reception (R105) -/

theorem State.receive_dropped {s : State} {f : Frame}
    (h : s.receiving = false ∨ s.isEcho = true ∨ f.sender = 0 ∨ 48 < f.sender) : s.receive f = s := by
  rw [State.receive]
  rcases h with h | h | h
  · exact if_pos (.inl h)
  · exact if_pos (.inr (.inl h))
  · split
    · rfl
    · exact if_pos h

/-- A frame received that is no echo and bears a unit number is this unit's own or goes to the revision check. -/
theorem State.receive_admitted {s : State} {f : Frame} (hrec : s.receiving = true) (hecho : s.isEcho = false)
    (hlen : f.body.lengthOk = true) (hlow : 1 ≤ f.sender) (hhigh : f.sender ≤ 48) :
    s.receive f = if f.sender = s.unit then s.duplicate
      else if f.revision = s.ctl.model.revision then (s.revisionCheck f.sender f.revision).dispatch f
      else s.revisionCheck f.sender f.revision := by
  rw [State.receive, if_neg (by rw [hrec, hecho, hlen]; simp),
    if_neg (by rintro (h | h); exacts [Nat.ne_of_gt hlow h, Nat.not_lt.2 hhigh h])]

theorem State.receive_hears {s : State} {f : Frame} (h : s.hears f.sender f.revision) (hlen : f.body.lengthOk = true) :
    s.receive f = (s.heardFrom f.sender).dispatch f := by
  obtain ⟨hrec, hecho, hlow, hhigh, hother, hrev⟩ := h
  rw [State.receive_admitted hrec hecho hlen hlow hhigh, if_neg hother, if_pos hrev, State.revisionCheck, if_pos hrev,
    State.heardFrom]

theorem State.isEcho_iff (s : State) : s.isEcho = true ↔ s.link.rxEcho = true ∨
    ∃ last, s.link.stage = .sending last ∨ s.link.stage = .echoWait last := by
  rw [State.isEcho, Bool.or_eq_true]
  cases s.link.stage <;> simp [TxStage.attempting]

theorem Frame.lengthOk_of_wellFormed {f : Frame} (h : f.wellFormed = true) : f.body.lengthOk = true := by
  obtain ⟨sender, revision, body⟩ := f
  cases body with
  | bulletin n r hold items =>
    simp only [Frame.wellFormed, frameCommand, Instr.wellFormed, Bool.and_eq_true, decide_eq_true_eq] at h
    exact decide_eq_true h.1.2
  | ask | hold | drop | yieldRequest => rfl

/-! ### Peers by unit number -/

theorem State.peer_mapPeer (s : State) (unit : Nat) (f : PeerRecord → PeerRecord) (hf : ∀ p, (f p).unit = p.unit)
    (other : Nat) : (s.mapPeer unit f).peer? other = (s.peer? other).map fun p => if other = unit then f p else p :=
  find_modify_key PeerRecord.unit unit f hf s.image.peers other

theorem State.mapPeer_peers (s : State) (unit : Nat) (f : PeerRecord → PeerRecord) :
    (s.mapPeer unit f).image.peers = s.image.peers.map fun q => if q.unit = unit then f q else q := by
  unfold State.mapPeer State.setImage modifyWhere
  simp only [beq_iff_eq]

/-- An event takes the port of any state with the same port and clock, and leaves the rest. -/
theorem State.event_port_of {s t : State} (b : EventBody) (hp : t.port = s.port) (hm : t.micros = s.micros) :
    t.event b = { t with port := (s.raise [b]).port } := by
  rw [← State.raise_one t, State.raise_eq _ t, State.raise_port_congr [b] hp hm]

/-! ### What the reading of received bytes asks (R180) -/

/-- A body is read only with a known type and the length that the type requires. -/
theorem parseBody_some {type : Nat} {body : List Byte} {b : FrameBody} (h : parseBody type body = some b) :
    type = 0x01 ∧ body.length = 6 + 4 * (body.getD 5 0).toNat ∧ (body.getD 5 0).toNat ≤ 24 ∨
      type ∈ [0x21, 0x22] ∧ body.length = 5 ∨ type = 0x23 ∧ body.length = 1 ∨ type = 0x24 ∧ body.length = 2 := by
  unfold parseBody at h
  split at h
  next s1 s0 r h1 h0 n items =>
    split at h
    next hn =>
      refine .inl ⟨rfl, ?_, hn.2⟩
      simp only [List.length_cons, List.getD_cons_succ, List.getD_cons_zero]
      omega
    next => cases h
  next => exact .inr (.inl ⟨by decide, rfl⟩)
  next => exact .inr (.inl ⟨by decide, rfl⟩)
  next => exact .inr (.inr (.inl ⟨rfl, rfl⟩))
  next => exact .inr (.inr (.inr ⟨rfl, rfl⟩))
  next => cases h

/-- The bytes between header and CRC. -/
def bodyBytes (bytes : List Byte) : List Byte := (bytes.drop 5).take (bytes.getD 4 0).toNat

theorem parseFrame_some {bytes : List Byte} {f : Frame} (h : parseFrame bytes = some f) :
    bytes.length = (bytes.getD 4 0).toNat + 7 ∧ crcGood bytes = true ∧
      ∃ b, parseBody (bytes.getD 0 0).toNat (bodyBytes bytes) = some b := by
  unfold parseFrame at h
  split at h
  next type sender r1 r0 len rest =>
    split at h
    next hlen =>
      split at h
      next body hbody =>
        split at h
        next hcrc => exact ⟨by simp only [List.length_cons, List.getD_cons_succ, List.getD_cons_zero]; omega, hcrc, body, hbody⟩
        next => cases h
      next => cases h
    next => cases h
  next => cases h

theorem bodyBytes_length {bytes : List Byte} (h : bytes.length = (bytes.getD 4 0).toNat + 7) :
    (bodyBytes bytes).length = (bytes.getD 4 0).toNat := by
  rw [bodyBytes, List.length_take, List.length_drop]
  omega

theorem bodyBytes_count {bytes : List Byte} (h : bytes.length = (bytes.getD 4 0).toNat + 7)
    (hlong : 6 ≤ (bytes.getD 4 0).toNat) : (bodyBytes bytes).getD 5 0 = bytes.getD 10 0 := by
  rw [bodyBytes, List.getD_eq_getElem?_getD, List.getElem?_take_of_lt (by omega), List.getElem?_drop,
    List.getD_eq_getElem?_getD]

theorem exec_damagedFrame_unread {s : State} {bytes : List Byte} (h : ∀ f, parseFrame bytes ≠ some f) :
    exec (.damagedFrame bytes) s = .next s := by
  show execDamagedFrame bytes s = _
  rw [execDamagedFrame, Option.eq_none_iff_forall_ne_some.2 h]

/-- Settles O42: no frame where none is heard, the two kinds of frame that are reported once, and the bytes that are no
frame. -/
theorem framesAreSifted : Obligations.FramesAreSifted := by
  refine ⟨State.isEcho_iff, fun s f h => ?_, fun s f hwf hrec hecho hlow hhigh => ?_, fun s bytes hbad => ?_,
    fun s bytes => ?_⟩
  · rw [exec_frameCommand, State.receive_dropped h]
  · have hin := State.receive_admitted hrec hecho (Frame.lengthOk_of_wellFormed hwf) hlow hhigh
    refine ⟨fun hown => ⟨fun hdup => ?_, fun hdup => ⟨_, ?_, s.enterMuted_muted .duplicateUnit⟩⟩,
      fun hother hrev p hp => ⟨fun hm => ?_, fun hm => ?_⟩⟩
    · rw [exec_frameCommand, hin, if_pos hown, State.duplicate, if_pos hdup]
    · rw [exec_frameCommand, hin, if_pos hown, State.duplicate, if_neg (by rw [hdup]; exact Bool.false_ne_true)]
    · rw [exec_frameCommand, hin, if_neg hother, if_neg hrev, State.revisionCheck, if_neg hrev, hp]
      exact congrArg Host.Outcome.next (if_pos hm)
    · rw [exec_frameCommand, hin, if_neg hother, if_neg hrev, State.revisionCheck, if_neg hrev, hp]
      exact congrArg Host.Outcome.next (if_neg (by rw [hm]; exact Bool.false_ne_true))
  · refine exec_damagedFrame_unread fun f hf => ?_
    obtain ⟨hlen, hcrc, b, hbody⟩ := parseFrame_some hf
    rcases hbad with h | h | h | h
    · exact h hlen
    · omega
    · exact Bool.false_ne_true (h.symm.trans hcrc)
    · refine h ?_
      rcases parseBody_some hbody with ⟨ht, -⟩ | ⟨ht, -⟩ | ⟨ht, -⟩ | ⟨ht, -⟩
      · rw [ht]; decide
      · exact List.mem_cons_of_mem _ (List.mem_append_left [0x23, 0x24] ht)
      · rw [ht]; decide
      · rw [ht]; decide
  · intro type bodyLength items hbad
    refine exec_damagedFrame_unread fun f hf => ?_
    obtain ⟨hlen, -, b, hbody⟩ := parseFrame_some hf
    have hcount : 6 ≤ bodyLength → (bodyBytes bytes).getD 5 0 = bytes.getD 10 0 := bodyBytes_count hlen
    have hfit := parseBody_some hbody
    rw [bodyBytes_length hlen] at hfit
    simp only [List.mem_cons, List.not_mem_nil, or_false] at hbad hfit
    change type = 1 ∧ bodyLength = _ ∧ _ ∨ (type = 0x21 ∨ type = 0x22) ∧ bodyLength = 5 ∨ type = 0x23 ∧ bodyLength = 1 ∨
      type = 0x24 ∧ bodyLength = 2 at hfit
    rcases hfit with ⟨ht, hl, hn⟩ | h
    · rw [hcount (by omega)] at hl hn
      change bodyLength = 6 + 4 * items at hl
      change items ≤ 24 at hn
      omega
    · omega

/-! ### Values and codes (R3, R4, section 12.5) -/

theorem valueOfCode_eq_some (b : Byte) (y : PointValue) : valueOfCode b = some y ↔ y.code = b := by
  constructor
  · intro h
    unfold valueOfCode at h
    split_ifs at h <;> subst_vars <;> cases h <;> rfl
  · rintro rfl
    cases y <;> rfl

theorem PointKind.admits_iff (k : PointKind) (y : PointValue) : k.admits y = true ↔
    k.isSwitch = true ∧ y ∈ [.opened, .closed, .travel, .bad] ∨ k = .voltage ∧ y ∈ [.absent, .present, .bad] ∨
      k = .binary ∧ y ∈ [.low, .high] := by
  cases k <;> simp [PointKind.admits, PointKind.isSwitch, or_assoc]

/-! ### A bulletin's acceptance (R45 to R50) -/

/-- The zone movements of several switches are one change of the table. -/
theorem zoneMovements_eq (es : List PointEntry) (s : State) :
    zoneMovements es s = { s with image := { s.image with
      moves := s.image.moves.map fun m =>
        if ∃ e ∈ es, m.zone ∈ s.ctl.model.required e.id then { m with time := some s.now } else m } } := by
  induction es generalizing s with
  | nil =>
    rw [zoneMovements]
    simp
  | cons e es ih =>
    rw [zoneMovements, ih, State.zoneMovement_eq]
    dsimp only
    rw [List.map_map]
    congr 2
    refine List.map_congr_left fun m _ => ?_
    by_cases he : m.zone ∈ s.ctl.model.required e.id
    · simp only [Function.comp_apply, List.mem_cons, exists_eq_or_imp, true_or, he, if_true]
      split <;> rfl
    · simp only [Function.comp_apply, List.mem_cons, exists_eq_or_imp, false_or, he]
      rfl

/-- The value and the flags that a bulletin's first item of an entry's id carries for it (R47, log 28). -/
def carriedFlags (items : List Item) (e : PointEntry) : Option (PointValue × Byte) :=
  (items.find? fun i => i.point = e.id).bind fun i =>
    match valueOfCode i.value with
    | some x => if e.kind.admits x = true then some (x, i.flags) else none
    | none => none

theorem carried_eq (e : PointEntry) (items : List Item) :
    carried e items = (carriedFlags items e).map fun x => (x.1, e.kind.isSwitch && x.2.getLsbD 0) := by
  unfold carried carriedFlags
  have hfind : (items.find? fun i => i.point == e.id) = items.find? fun i => i.point = e.id := rfl
  rw [hfind]
  cases items.find? fun i => i.point = e.id with
  | none => rfl
  | some i =>
    rw [Option.bind_some]
    dsimp only
    cases valueOfCode i.value with
    | none => rfl
    | some x =>
      dsimp only
      split <;> rfl

/-- An entry after a bulletin accepted as new, as R46 and R47 give it. -/
def takenEntry (sender : Nat) (items : List Item) (e : PointEntry) : PointEntry :=
  if e.owner = sender then
    match carriedFlags items e with
    | some (x, flags) => { e with value := some x, suspect := e.kind.isSwitch && flags.getLsbD 0, presence := .held }
    | none => { e with presence := .missing }
  else e

theorem applyItem_eq (sender : Nat) (items : List Item) (e : PointEntry) :
    applyItem sender items e = takenEntry sender items e := by
  rw [applyItem, takenEntry, carried_eq]
  cases carriedFlags items e <;> rfl

theorem mem_filter_movedBy {sender : Nat} {items : List Item} {es : List PointEntry} {P : PointEntry → Prop} :
    (∃ e ∈ es.filter (movedBy sender items), P e) ↔
      ∃ e ∈ es, e.kind.isSwitch = true ∧ (takenEntry sender items e).value ≠ e.value ∧ P e := by
  simp only [List.mem_filter, movedBy, applyItem_eq, Bool.and_eq_true, bne_iff_ne, and_assoc]

/-- A new bulletin's image, and its event for a peer that was not GOOD. -/
theorem State.acceptNew_eq {s v : State} (hport : v.port = s.port) (hmicros : v.micros = s.micros) (p : PeerRecord)
    (n : StateNo) (r : Byte) (hold : Nat) (items : List Item) :
    v.acceptNew p n r hold items = { v with
      image := {
        entries := v.image.entries.map (takenEntry p.unit items)
        peers := (v.mapPeer p.unit fun q =>
          { q with lastState := n, lastRepeat := r, expiry := after v.now (clampHold hold), status := .good }).image.peers
        moves := v.image.moves.map fun m =>
          if ∃ e ∈ v.image.entries, e.kind.isSwitch = true ∧ (takenEntry p.unit items e).value ≠ e.value ∧
              m.zone ∈ v.ctl.model.required e.id then { m with time := some v.now } else m }
      port := if p.status = .good then s.port else (s.raise [.peerGood p.unit]).port } := by
  have hentries : v.image.entries.map (applyItem p.unit items) = v.image.entries.map (takenEntry p.unit items) :=
    List.map_congr_left fun e _ => applyItem_eq _ _ _
  rw [State.acceptNew, zoneMovements_eq]
  simp only [mem_filter_movedBy, hentries]
  split
  · rw [← hport]; rfl
  · rw [State.event_port_of (s := s) _ (by exact hport) (by exact hmicros)]; rfl

theorem State.acceptWithdrawal_eq {s v : State} (hport : v.port = s.port) (hmicros : v.micros = s.micros)
    (p : PeerRecord) (n : StateNo) (r : Byte) :
    v.acceptWithdrawal p n r = { v with
      image := { v.image with peers :=
        (v.mapPeer p.unit fun q => { q with lastState := n, lastRepeat := r, status := .withdrawn }).image.peers }
      port := if p.status = .withdrawn then s.port else (s.raise [.peerWithdrawn p.unit]).port } := by
  rw [State.acceptWithdrawal]
  dsimp only
  split
  · rw [← hport]; rfl
  · rw [State.event_port_of (s := s) _ (by exact hport) (by exact hmicros)]; rfl

theorem exec_bulletin_heard {s : State} {sender revision : Nat} (h : s.hears sender revision) (n : StateNo) (r : Byte)
    (hold : Nat) {items : List Item} (hlen : items.length ≤ 24) :
    exec (.bulletin sender revision n r hold items) s =
      .next ((s.heardFrom sender).takeBulletin sender n r hold items) :=
  congrArg Host.Outcome.next (State.receive_hears (f := ⟨sender, revision, .bulletin n r hold items⟩) h
    (decide_eq_true hlen))

theorem State.peer_heardFrom {s : State} {sender : Nat} {p : PeerRecord} (h : s.peer? sender = some p) :
    (s.heardFrom sender).peer? sender = some { p with mismatch := false } := by
  rw [State.heardFrom, State.peer_mapPeer s sender (fun p => { p with mismatch := false }) (fun _ => rfl), h,
    Option.map_some, if_pos rfl]

section
variable {s : State} {p : PeerRecord} {sender : Nat} (hp : s.peer? sender = some p) (n : StateNo) (r : Byte) (items : List Item)
include hp

theorem State.takeBulletin_older (hold : Nat) (hg : p.status = .good) (hold' : 32768 ≤ (n - p.lastState).toNat) :
    s.takeBulletin sender n r hold items = s := by
  rw [State.takeBulletin, hp]
  exact if_pos ⟨hg, hold'⟩

theorem State.takeBulletin_withdrawal (hnew : p.status = .good → (n - p.lastState).toNat < 32768) :
    s.takeBulletin sender n r 0 items = s.acceptWithdrawal p n r := by
  rw [State.takeBulletin, hp]
  exact (if_neg fun h => Nat.not_le.2 (hnew h.1) h.2).trans (if_pos rfl)

theorem State.takeBulletin_repeat {hold : Nat} (hh : hold ≠ 0) (hg : p.status = .good) (hn : n = p.lastState) :
    s.takeBulletin sender n r hold items = s.acceptRepeat p r hold := by
  have hd : stateDistance n p.lastState = 0 := by rw [hn, stateDistance, BitVec.sub_self]; rfl
  rw [State.takeBulletin, hp]
  exact (if_neg fun h => by rw [hd] at h; omega).trans ((if_neg hh).trans (if_pos ⟨hg, hd⟩))

theorem State.takeBulletin_new {hold : Nat} (hh : hold ≠ 0) (hnew : p.status = .good → (n - p.lastState).toNat < 32768)
    (h : p.status ≠ .good ∨ n ≠ p.lastState) :
    s.takeBulletin sender n r hold items = s.acceptNew p n r hold items := by
  have hnot : ¬ (p.status = .good ∧ stateDistance n p.lastState = 0) := by
    rintro ⟨hg, hd⟩
    rcases h with h | h
    · exact h hg
    · refine h ?_
      have hzero : n - p.lastState = 0 := BitVec.eq_of_toNat_eq hd
      bv_omega
  rw [State.takeBulletin, hp]
  exact (if_neg fun h => Nat.not_le.2 (hnew h.1) h.2).trans ((if_neg hh).trans (if_neg hnot))

end

/-- Settles O41: values, kinds and peers said once, then the four ways a bulletin is taken. -/
theorem bulletinIsTaken : Obligations.BulletinIsTaken := by
  intro s sender revision n r hold items p hears hlen hp v clamped record c
  obtain ⟨-, rfl⟩ := mem_of_find_key hp
  have hv := State.peer_heardFrom hp
  have hexec : exec c s = .next (v.takeBulletin p.unit n r hold items) := exec_bulletin_heard hears n r hold hlen
  refine ⟨valueOfCode_eq_some, PointKind.admits_iff, State.mapPeer_peers _ _ _, fun hg hold' => ?_,
    fun hnew => ⟨?_, fun hh hg hn => ?_, fun hh hother => ?_⟩⟩
  · rw [hexec, State.takeBulletin_older hv n r items hold hg hold']
  · rintro rfl
    rw [hexec, State.takeBulletin_withdrawal hv n r items hnew, State.acceptWithdrawal_eq (s := s) (v := v) rfl rfl]
  · rw [hexec, State.takeBulletin_repeat hv n r items hh hg hn]
    rfl
  · intro value taken
    rw [hexec, State.takeBulletin_new hv n r items hh hnew hother, State.acceptNew_eq (s := s) (v := v) rfl rfl]
    rfl

/-! ### Expiry and lapse (R51, R120) -/

theorem State.lapse_eq (s : State) (t : Option Time) :
    s.lapse t = t.bind fun t => if 1073741824 ≤ (s.now - t).toNat then none else some t := by
  cases t with
  | none => rfl
  | some t =>
    rw [State.lapse, Option.bind_some]
    by_cases h : 1073741824 ≤ (s.now - t).toNat
    · rw [if_pos h]; exact if_pos (decide_eq_true h)
    · rw [if_neg h]; exact if_neg fun hl => h (of_decide_eq_true hl)

/-- Settles O43: a peer's expiry taken or not, and the two stored times. -/
theorem peersExpireAndTimesLapse : Obligations.PeersExpireAndTimesLapse := by
  intro s hw young
  have hpeer : ∀ unit, exec (.peerExpiry unit) s = .next (s.expirePeer unit) :=
    fun unit => congrArg Host.Outcome.next (if_pos hw)
  have hlapse : ∀ which, exec (.storedTimeLapse which) s = .next (s.lapseStored which) :=
    fun which => congrArg Host.Outcome.next (if_pos hw)
  have hyoung : ∀ t, s.lapse t = t.bind young := s.lapse_eq
  refine ⟨fun unit p hp => ⟨fun hnot => ?_, fun hg hlate => ?_⟩, fun id => ?_, fun z => ?_⟩
  · have hno : ¬ (p.status = .good ∧ s.reached p.expiry = true) := by
      rintro ⟨hg, hlate⟩
      rcases hnot with h | h
      · exact h hg
      · exact Bool.false_ne_true (h.symm.trans hlate)
    rw [hpeer, State.expirePeer, hp]
    exact congrArg Host.Outcome.next (if_neg hno)
  · have hexpired : s.expirePeer unit = (s.mapPeer unit fun q => { q with status := .stale }).event (.peerStale unit) := by
      rw [State.expirePeer, hp]
      exact if_pos ⟨hg, hlate⟩
    have hevent := State.event_port_of (s := s) (t := s.mapPeer unit fun q => { q with status := .stale })
      (.peerStale unit) rfl rfl
    have hfind : ∀ other, (s.expirePeer unit).peer? other =
        (s.peer? other).map fun p => if other = unit then { p with status := .stale } else p := by
      intro other
      rw [hexpired, hevent]
      exact State.peer_mapPeer s unit (fun q => { q with status := .stale }) (fun _ => rfl) other
    refine ⟨_, hpeer unit, fun q hq => ?_, fun other hne => ?_, ?_⟩
    · rw [hfind, hp, Option.map_some, if_pos rfl] at hq
      exact (Option.some.inj hq).symm
    · rw [hfind]
      simp only [if_neg hne, Option.map_id']
    · rw [hexpired, hevent]
      rfl
  · rw [hlapse, State.lapseStored, State.mapPoint_eq]
    simp only [hyoung]
  · rw [hlapse, State.lapseStored, modifyWhere]
    simp only [hyoung, beq_iff_eq, State.setImage]

end Sys2Proof.Machine
end


section
/-! PROOFS. Peer claim lists (section 8.3): what an ASK or HOLD replaces, adds or gives up. -/
namespace Sys2Proof.Machine

/-! ### The entry that a full list gives up (R125) -/

/-- An ASK that every other ASK betters is the worst. -/
theorem worstOf_eq_some {l : List PeerClaim} {w : PeerClaim} (hw : w ∈ l)
    (h : ∀ a ∈ l, a ≠ w → a.rank.better w.rank = true) : worstOf l = some w := by
  cases hv : worstOf l with
  | none => rw [(worstOf_none l).1 hv] at hw; cases hw
  | some v =>
    by_cases hne : v = w
    · rw [hne]
    · have hvw := h v (worstOf_mem l v hv) hne
      have hirrefl := Rank.better_asymm _ _ hvw
      rcases worstOf_worst l v hv w hw with heq | hwv
      · rw [heq] at hirrefl hvw
        exact absurd (hirrefl.symm.trans hvw) Bool.false_ne_true
      · exact absurd (hirrefl.symm.trans hwv) Bool.false_ne_true

theorem expiresFirst_iff (now : Time) (a b : PeerClaim) : expiresFirst now a b = true ↔
    (a.expiry - now).toNat < (b.expiry - now).toNat ∨ a.expiry = b.expiry ∧ b.unit < a.unit := by
  simp only [expiresFirst, Bool.or_eq_true, Bool.and_eq_true, decide_eq_true_eq, beq_iff_eq]

theorem expiresFirst_asymm {now : Time} {a b : PeerClaim} (h : expiresFirst now a b = true) :
    ¬ expiresFirst now b a = true := by
  rw [expiresFirst_iff] at *
  rintro (h' | ⟨he, h'⟩)
  · rcases h with h | ⟨he, h⟩
    · omega
    · rw [he] at h'
      omega
  · rw [he] at h
    omega

/-- An entry that expires before every other is the earliest (log 20). -/
theorem earliestOf_eq_some {now : Time} {l : List PeerClaim} {w : PeerClaim} (hw : w ∈ l)
    (h : ∀ a ∈ l, a ≠ w → expiresFirst now w a = true) : earliestOf now l = some w := by
  induction l with
  | nil => cases hw
  | cons e rest ih =>
    rw [earliestOf]
    by_cases hwr : w ∈ rest
    · rw [ih hwr fun a ha => h a (List.mem_cons_of_mem _ ha)]
      dsimp only
      by_cases he : e = w
      · rw [he, ite_self]
      · exact if_neg (expiresFirst_asymm (h e List.mem_cons_self he))
    · obtain rfl : w = e := (List.mem_cons.1 hw).resolve_right hwr
      split
      next => rfl
      next v hv =>
        have hvr := earliestOf_mem now rest v hv
        exact if_pos (h v (List.mem_cons_of_mem _ hvr) fun hvw => hwr (hvw ▸ hvr))

/-! ### A full list (R125) -/

theorem removeUnit_eq (l : List PeerClaim) (unit : Nat) : removeUnit l unit = l.filter fun e => e.unit ≠ unit :=
  List.filter_congr fun e _ => by simp [bne, Bool.beq_eq_decide_eq]

theorem addEntry_room {now : Time} {l : List PeerClaim} {new : PeerClaim} (h : l.length < 8) :
    addEntry now l new = l ++ [new] := if_pos h

theorem addEntry_gives {now : Time} {l : List PeerClaim} {new w : PeerClaim} (h : 8 ≤ l.length)
    (hw : evicted now l new = some w) : addEntry now l new = (l.filter fun e => e.unit ≠ w.unit) ++ [new] := by
  rw [addEntry, if_neg (by exact Nat.not_lt.2 h), hw, ← removeUnit_eq]

theorem addEntry_keeps {now : Time} {l : List PeerClaim} {new : PeerClaim} (h : 8 ≤ l.length)
    (hw : evicted now l new = none) : addEntry now l new = l := by
  rw [addEntry, if_neg (by exact Nat.not_lt.2 h), hw]

theorem evicted_worst {now : Time} {l : List PeerClaim} {new w : PeerClaim} (hw : worstOf (asksOf l) = some w)
    (h : new.kind = .hold ∨ new.rank.better w.rank = true) : evicted now l new = some w := by
  rw [evicted, hw]
  cases hk : new.kind with
  | hold => rfl
  | ask => exact if_pos (h.resolve_left fun h => nomatch hk.symm.trans h)

theorem evicted_ask_worse {now : Time} {l : List PeerClaim} {new w : PeerClaim} (hw : worstOf (asksOf l) = some w)
    (hk : new.kind = .ask) (h : new.rank.better w.rank = false) : evicted now l new = none := by
  rw [evicted, hw, hk]
  exact if_neg (by rw [h]; exact Bool.false_ne_true)

theorem evicted_no_asks {now : Time} {l : List PeerClaim} {new : PeerClaim} (hno : asksOf l = []) :
    evicted now l new = match new.kind with
      | .hold => earliestOf now l
      | .ask => none := by
  rw [evicted, hno, worstOf]
  cases new.kind <;> rfl

/-! ### An ASK or HOLD entered (R124) -/

theorem enterClaim_replaces {now : Time} {live : PeerClaim → Bool} {l : List PeerClaim} {new old : PeerClaim}
    (hmem : old ∈ l) (hunit : old.unit = new.unit) (hlive : live old = true) :
    (enterClaim now live l new).1 = l.map fun e => if e.unit = new.unit then new else e := by
  have hfound : (l.find? fun e => e.unit == new.unit && live e).isSome = true := by
    rw [List.find?_isSome]
    exact ⟨old, hmem, by rw [hunit, hlive, beq_self_eq_true, Bool.and_true]⟩
  obtain ⟨x, hx⟩ := Option.isSome_iff_exists.1 hfound
  rw [enterClaim, hx]
  simp only [modifyWhere, beq_iff_eq]

theorem find_live_eq_none {live : PeerClaim → Bool} {l : List PeerClaim} {unit : Nat}
    (h : ∀ e ∈ l, e.unit = unit → live e = false) : (l.find? fun e => e.unit == unit && live e) = none := by
  rw [List.find?_eq_none]
  intro e he hlive
  rw [Bool.and_eq_true, beq_iff_eq] at hlive
  exact Bool.false_ne_true ((h e he hlive.1).symm.trans hlive.2)

theorem enterClaim_adds {now : Time} {live : PeerClaim → Bool} {l : List PeerClaim} {new : PeerClaim}
    (h : ∀ e ∈ l, e.unit = new.unit → live e = false) :
    (enterClaim now live l new).1 = addEntry now (l.filter live) new := by
  rw [enterClaim, find_live_eq_none h]

/-- Settles O45: the live entry replaced, else what a list with room and a full one make of the new entry. -/
theorem peerListPolicy : Obligations.PeerListPolicy := by
  intro now live l new _ out kept asks giveUp
  refine ⟨fun old hmem hunit hlive => enterClaim_replaces hmem hunit hlive, fun hnone => ?_⟩
  have hout : out = addEntry now kept new := enterClaim_adds hnone
  refine ⟨fun hroom => hout.trans (addEntry_room hroom), fun hfull => ⟨fun w hw hworst => ?_, fun hno hask => ?_,
    fun w hw hno hhold hfirst => ?_⟩⟩
  · have hw' : worstOf (asksOf kept) = some w := worstOf_eq_some hw hworst
    exact ⟨fun h => hout.trans (addEntry_gives hfull (evicted_worst hw' h)),
      fun hask hworse => hout.trans (addEntry_keeps hfull (evicted_ask_worse hw' hask hworse))⟩
  · exact hout.trans (addEntry_keeps hfull (by rw [evicted_no_asks hno, hask]))
  · have hfirst' : ∀ a ∈ kept, a ≠ w → expiresFirst now w a = true :=
      fun a ha hne => (expiresFirst_iff now w a).2 (hfirst a ha hne)
    exact hout.trans (addEntry_gives hfull (by rw [evicted_no_asks hno, hhold]; exact earliestOf_eq_some hw hfirst'))

end Sys2Proof.Machine
end


section
/-! PROOFS. Zone claims (chapter 8): removed entries, yield requests heard and the claim controller's times. -/
namespace Sys2Proof.Machine

/-! ### A zone's list changed (R124) -/

theorem State.zone_listSet (s : State) (z : Nat) (l : List PeerClaim) (y : Nat) :
    (s.listSet z l).zone? y = (s.zone? y).map fun c => if y = z then { c with peers := l } else c := by
  have hmap : s.listSet z l = s.mapZone z fun c => { c with peers := l } := by
    unfold State.listSet State.mapZone modifyWhere State.setClaims
    simp only [beq_iff_eq]
  rw [hmap]
  exact State.zone_mapZone s z (fun c => { c with peers := l }) (fun _ => rfl) y

theorem State.own_listSet (s : State) (z : Nat) (l : List PeerClaim) (y : Nat) : (s.listSet z l).own y = s.own y := by
  rw [State.own, State.zone_listSet, State.own]
  cases s.zone? y with
  | none => rfl
  | some c => dsimp only [Option.map_some]; split <;> rfl

theorem State.peersOf_listSet {s : State} {z : Nat} (h : (s.zone? z).isSome = true) (l : List PeerClaim) :
    (s.listSet z l).peersOf z = l := by
  obtain ⟨c, hc⟩ := Option.isSome_iff_exists.1 h
  rw [State.peersOf, State.zone_listSet, hc, Option.map_some, if_pos rfl]

theorem State.zone_of_mem_peersOf {s : State} {z : Nat} {e : PeerClaim} (h : e ∈ s.peersOf z) :
    (s.zone? z).isSome = true := by
  cases hz : s.zone? z with
  | none => rw [State.peersOf_of_zone?_none hz] at h; cases h
  | some c => rfl

/-- In a table that has each zone once, a change of a zone's list is its list set. -/
theorem State.zoneInv.mapPeers {s : State} (h : s.zoneInv) (z : Nat) (f : List PeerClaim → List PeerClaim) :
    (s.mapZone z fun c => { c with peers := f c.peers }) = s.listSet z (f (s.peersOf z)) := by
  unfold State.mapZone State.listSet modifyWhere State.setClaims
  have hzones : (s.claims.zones.map fun c => if c.zone == z then { c with peers := f c.peers } else c) =
      s.claims.zones.map fun c => if c.zone = z then { c with peers := f (s.peersOf z) } else c := by
    refine List.map_congr_left fun c hc => ?_
    by_cases hz : c.zone = z
    · subst hz
      rw [if_pos (beq_self_eq_true _), if_pos rfl, State.peersOf_of_zone? (h.zone?_of_mem hc)]
    · rw [if_neg (by rwa [beq_iff_eq]), if_neg hz]
  rw [hzones]

/-- Nothing of the list blocks: every entry that counts is an ASK of no better rank (R121). -/
def State.freeWith (s : State) (l : List PeerClaim) : Prop :=
  ∀ e ∈ l, s.reached e.expiry = false → e.kind = .ask ∧ e.rank.better s.ownRank = false

theorem State.blocked_eq_false_iff (s : State) (z : Nat) : s.blocked z = false ↔ s.freeWith (s.peersOf z) := by
  rw [← Bool.not_eq_true, State.blocked_iff, not_exists]
  refine forall_congr' fun e => ?_
  rw [not_and, not_and]
  refine imp_congr_right fun _ => imp_congr_right fun _ => ?_
  cases e.kind <;> simp

theorem State.blocked_listSet {s : State} {z : Nat} (h : (s.zone? z).isSome = true) (l : List PeerClaim) :
    (s.listSet z l).blocked z = false ↔ s.freeWith l := by
  rw [State.blocked_eq_false_iff, State.peersOf_listSet h]
  exact Iff.rfl

/-! ### The test of R132 -/

theorem State.retest_asks {s : State} {z : Nat} (ho : s.own z = .waiting) (hb : s.blocked z = false) :
    s.retest z = s.asks z := by
  rw [State.retest, if_pos ⟨ho, hb⟩, State.askZone_eq]

theorem State.retest_stays {s : State} {z : Nat} (h : s.own z ≠ .waiting ∨ s.blocked z = true) : s.retest z = s := by
  refine if_neg ?_
  rintro ⟨ho, hb⟩
  rcases h with h | h
  · exact h ho
  · exact Bool.false_ne_true (hb.symm.trans h)

/-! ### Entries removed (R124, R126) -/

theorem State.removeEntry_none {s : State} {z unit : Nat} {gone : PeerClaim → Bool}
    (h : ∀ e ∈ s.peersOf z, e.unit = unit → gone e = false) : s.removeEntry z unit gone = s := by
  refine if_neg ?_
  rw [List.any_eq_true]
  rintro ⟨e, he, hg⟩
  rw [Bool.and_eq_true, beq_iff_eq] at hg
  exact Bool.false_ne_true ((h e he hg.1).symm.trans hg.2)

theorem State.removeEntry_some {s : State} (hz : s.zoneInv) {z unit : Nat} {gone : PeerClaim → Bool}
    (h : ∃ e ∈ s.peersOf z, e.unit = unit ∧ gone e = true) : s.removeEntry z unit gone =
      (s.listSet z ((s.peersOf z).filter fun e => !(e.unit == unit && gone e))).retest z := by
  obtain ⟨e, he, hu, hg⟩ := h
  have hany : (s.peersOf z).any (fun e => e.unit == unit && gone e) = true :=
    List.any_eq_true.2 ⟨e, he, by rw [hu, hg, beq_self_eq_true, Bool.and_true]⟩
  rw [State.removeEntry, if_pos hany, hz.mapPeers z fun l => l.filter fun e => !(e.unit == unit && gone e)]

theorem exec_drop_heard {s : State} {sender revision : Nat} (h : s.hears sender revision) (zone : Nat) :
    exec (.drop sender revision zone) s = .next ((s.heardFrom sender).removeEntry zone sender fun _ => true) :=
  congrArg Host.Outcome.next (State.receive_hears (f := ⟨sender, revision, .drop zone⟩) h rfl)

theorem exec_peerEntryExpiry_receiving {s : State} (h : s.receiving = true) (zone unit : Nat) :
    exec (.peerEntryExpiry zone unit) s = .next (s.removeEntry zone unit fun e => !s.live e) :=
  congrArg Host.Outcome.next (if_pos h)

theorem State.not_live (s : State) (e : PeerClaim) : (!s.live e) = s.reached e.expiry := Bool.not_not _

/-- A list set in a zone of the table, and the zone tested: it asks again exactly if it waits and the list is free. -/
theorem State.retest_listSet {s : State} {zone : Nat} (h : (s.zone? zone).isSome = true) (l : List PeerClaim) :
    (s.own zone = .waiting → s.freeWith l → (s.listSet zone l).retest zone = (s.listSet zone l).asks zone) ∧
    (s.own zone ≠ .waiting ∨ ¬ s.freeWith l → (s.listSet zone l).retest zone = s.listSet zone l) := by
  refine ⟨fun ho hf => ?_, fun hn => State.retest_stays ?_⟩
  · exact State.retest_asks ((s.own_listSet _ _ _).trans ho) ((State.blocked_listSet h l).2 hf)
  · refine hn.imp (fun ho => by rwa [State.own_listSet]) fun hf => ?_
    rw [← Bool.not_eq_false, State.blocked_listSet h]
    exact hf

/-- Settles O47: what is removed, and the zone's test after it. -/
theorem removedEntriesFreeTheZone : Obligations.RemovedEntriesFreeTheZone := by
  intro s zone unit revision hz free after
  refine ⟨fun hh => ?_, fun hr => ⟨fun hnone => ?_, fun hsome => ?_⟩⟩
  · intro v
    have hv : v.zoneInv := hz
    refine ⟨fun hnone => ?_, fun hsome => ?_⟩
    · rw [exec_drop_heard hh, State.removeEntry_none (s := v) fun e he hu => absurd hu (hnone e he)]
    · obtain ⟨e, he, hu⟩ := hsome
      have hfilter : ((s.peersOf zone).filter fun e => !(e.unit == unit && true)) =
          (s.peersOf zone).filter fun e => e.unit ≠ unit :=
        List.filter_congr fun e _ => by simp [Bool.beq_eq_decide_eq]
      refine ⟨_, exec_drop_heard hh zone, ?_⟩
      rw [State.removeEntry_some (s := v) hv ⟨e, he, hu, rfl⟩, ← hfilter]
      exact State.retest_listSet (s := v) (State.zone_of_mem_peersOf he) _
  · rw [exec_peerEntryExpiry_receiving hr, State.removeEntry_none fun e he hu => by
      rw [State.not_live]; exact hnone e he hu]
  · obtain ⟨e, he, hu, hg⟩ := hsome
    have hfilter : ((s.peersOf zone).filter fun e => !(e.unit == unit && !s.live e)) =
        (s.peersOf zone).filter fun e => e.unit ≠ unit ∨ s.reached e.expiry = false :=
      List.filter_congr fun e _ => by
        rw [State.not_live]
        by_cases hu : e.unit = unit <;> simp [hu]
    refine ⟨_, exec_peerEntryExpiry_receiving hr zone unit, ?_⟩
    rw [State.removeEntry_some hz ⟨e, he, hu, (State.not_live _ _).trans hg⟩, hfilter]
    exact State.retest_listSet (State.zone_of_mem_peersOf he) _

/-! ### Yield requests heard (R135, R161) -/

theorem exec_yieldRequest_heard {s : State} {sender revision : Nat} (h : s.hears sender revision) (zone urgency : Nat) :
    exec (.yieldRequest sender revision zone urgency) s = .next ((s.heardFrom sender).takeYield sender zone urgency) :=
  congrArg Host.Outcome.next (State.receive_hears (f := ⟨sender, revision, .yieldRequest zone urgency⟩) h rfl)

theorem State.zone_of_isHeld {s : State} {z : Nat} (h : (s.own z).isHeld = true) : (s.zone? z).isSome = true := by
  refine State.zone_of_own fun hidle => ?_
  rw [hidle] at h
  exact Bool.false_ne_true h

theorem State.claimFieldsOk_iff (s : State) (z urgency defer : Nat) :
    s.claimFieldsOk z urgency defer = true ↔ (s.zone? z).isSome = true ∧ urgency ≤ 3 ∧ defer ≤ 15 := by
  rw [State.claimFieldsOk, Bool.and_eq_true, Bool.and_eq_true, decide_eq_true_iff, decide_eq_true_iff, and_assoc]
  exact Iff.rfl

theorem State.ownUrgency_of {s : State} {p : Program} (h : s.seq.active = some p) : s.ownUrgency = p.urgency := by
  rw [State.ownUrgency, h]; rfl

theorem State.ownDefer_of {s : State} {p : Program} (h : s.seq.active = some p) : s.ownDefer = p.defer := by
  rw [State.ownDefer, h]; rfl

theorem State.driving_of {s : State} {p : Program} (ha : s.seq.active = some p) (h : p.phase = .driving) :
    s.driving = true := s.driving_iff.2 ⟨p, ha, h⟩

theorem State.not_driving_of {s : State} {p : Program} (ha : s.seq.active = some p) (h : p.phase ≠ .driving) :
    s.driving = false := by
  rw [← Bool.not_eq_true, State.driving_iff]
  rintro ⟨q, hq, hd⟩
  obtain rfl := Option.some.inj (ha.symm.trans hq)
  exact h hd

/-- Settles O48: without effect, pending in DRIVING, else a give-back. -/
theorem yieldRequestIsHeard : Obligations.YieldRequestIsHeard := by
  intro s sender revision zone urgency hh v c
  have hexec : exec c s = .next (v.takeYield sender zone urgency) := exec_yieldRequest_heard hh zone urgency
  refine ⟨fun hno => ?_, fun p hu hheld ha hless => ?_⟩
  · rw [hexec, State.takeYield, if_neg]
    rw [State.claimFieldsOk_iff]
    rintro ⟨⟨-, hu, -⟩, hheld, hless⟩
    rcases hno with h | h | h
    · exact Nat.not_le.2 h hu
    · exact Bool.false_ne_true (h.symm.trans hheld)
    · exact Nat.not_lt.2 h hless
  · have hact : v.takeYield sender zone urgency = v.yieldReported ⟨zone, sender⟩ := by
      refine if_pos ⟨(State.claimFieldsOk_iff _ _ _ _).2 ⟨State.zone_of_isHeld hheld, hu, Nat.zero_le _⟩, hheld, ?_⟩
      rw [State.ownUrgency_of (s := v) ha]
      exact hless
    rw [hact] at hexec
    refine ⟨fun hd => ?_, fun hd => ⟨v.yieldZones .yieldRequest ⟨zone, sender⟩, ?_, State.yieldZones_ends (s := v) ha _ _⟩⟩
    · rw [hexec, State.yieldReported, if_pos (State.driving_of (s := v) ha hd), State.mapActive_eq (s := v) ha]
    · rw [hexec, State.yieldReported, if_neg (by rw [State.not_driving_of (s := v) ha hd]; exact Bool.false_ne_true)]

/-! ### The claim controller's times (R128, R130, R133) -/

theorem State.secondAsk_asking {s : State} {z : Nat} {t windowEnd : Time} (h : s.own z = .asking (some t) windowEnd) :
    s.secondAsk z = if s.reached t then (s.ownSet z (.asking none windowEnd)).offer (s.anAsk z) else s := by
  rw [State.secondAsk, h, ← State.setOwn_eq]
  rfl

theorem State.refreshZone_held {s : State} {z : Nat} {t : Time} (h : s.own z = .held t) :
    s.refreshZone z = if s.reached t then s.holds z else s := by
  rw [State.refreshZone, h, ← State.holdZone_eq]

theorem State.closeWindow_asking {s : State} {z : Nat} {second : Option Time} {windowEnd : Time}
    (h : s.own z = .asking second windowEnd) :
    s.closeWindow z = if s.reached windowEnd then (if s.blocked z then s.loses z else s.winZone z) else s := by
  rw [State.closeWindow, h, ← State.loseWindow_eq]

theorem State.own_holds {s : State} {z : Nat} (h : (s.zone? z).isSome = true) (y : Nat) :
    (s.holds z).own y = if y = z then s.heldNow else s.own y := by
  rw [← State.holdZone_eq, State.holdZone, State.own_congr (t := s.setOwn z s.heldNow) (by rw [State.offer_eq]; rfl),
    State.own_setOwn, h]
  simp only [and_true]

theorem State.isHeld_holds {s : State} {z : Nat} (h : (s.zone? z).isSome = true) (y : Nat) :
    ((s.holds z).own y).isHeld = true ↔ y = z ∨ (s.own y).isHeld = true := by
  rw [State.own_holds h]
  split
  next hy => exact iff_of_true rfl (.inl hy)
  next hy => exact (or_iff_right hy).symm

theorem State.holds_keeps (s : State) (z : Nat) :
    (s.holds z).claims.job = s.claims.job ∧ (s.holds z).seq = s.seq ∧ (s.holds z).running = s.running := by
  unfold State.holds State.ownSet State.running
  simp

/-- The first zone of the job that is not HELD is asked for next (R127). -/
theorem State.nextZone_eq_some {s : State} {before rest : List Nat} {next : Nat}
    (hj : s.claims.job = some (before ++ next :: rest)) (hbefore : ∀ z ∈ before, (s.own z).isHeld = true)
    (hnext : (s.own next).isHeld = false) : s.nextZone = some next := by
  have hskip : (before.find? fun z => !(s.own z).isHeld) = none :=
    List.find?_eq_none.2 fun z hz => by rw [hbefore z hz]; exact Bool.false_ne_true
  rw [State.nextZone, hj, Option.getD_some, List.find?_append, hskip, List.find?_cons, hnext]
  rfl

theorem State.nextZone_eq_none {s : State} {job : List Nat} (hj : s.claims.job = some job)
    (hall : ∀ z ∈ job, (s.own z).isHeld = true) : s.nextZone = none := by
  rw [State.nextZone, hj, Option.getD_some, List.find?_eq_none]
  intro z hz
  rw [hall z hz]
  exact Bool.false_ne_true

theorem State.winZone_next {s : State} {z n : Nat} (h : (s.holds z).nextZone = some n) :
    s.winZone z = (s.holds z).asks n := by
  rw [State.winZone, State.holdZone_eq, h, ← State.askZone_eq]

theorem State.winZone_all {s : State} {z : Nat} (h : (s.holds z).nextZone = none) :
    s.winZone z = (s.holds z).enterGuard.takeUpNext := by
  rw [State.winZone, State.holdZone_eq, h]

/-- Settles O49: the three times of a zone, before and at each. -/
theorem claimTimersAct : Obligations.ClaimTimersAct := by
  intro s zone hr
  have hsecond : exec (.secondAskTime zone) s = .next (s.secondAsk zone) := congrArg Host.Outcome.next (if_pos hr)
  have hwindow : exec (.windowEnd zone) s = .next (s.closeWindow zone) := congrArg Host.Outcome.next (if_pos hr)
  have hrefresh : exec (.refreshTime zone) s = .next (s.refreshZone zone) := congrArg Host.Outcome.next (if_pos hr)
  refine ⟨fun p ha => ⟨State.ownUrgency_of ha, State.ownDefer_of ha⟩, fun t windowEnd ho => ⟨fun hearly => ?_,
    fun hlate => ?_⟩, fun second windowEnd ho => ⟨fun hearly => ?_, fun hlate => ⟨fun hblocked => ?_, fun hfree => ?_⟩⟩,
    fun t ho => ⟨fun hearly => ?_, fun hlate => ?_⟩⟩
  · rw [hsecond, State.secondAsk_asking ho, hearly, if_neg Bool.false_ne_true]
  · rw [hsecond, State.secondAsk_asking ho, if_pos hlate]
  · rw [hwindow, State.closeWindow_asking ho, hearly, if_neg Bool.false_ne_true]
  · have hb : s.blocked zone = true := by
      rw [← Bool.not_eq_false, State.blocked_eq_false_iff]
      obtain ⟨e, he, hlive, hblocks⟩ := hblocked
      intro hfree
      obtain ⟨hask, hworse⟩ := hfree e he hlive
      rcases hblocks with h | h
      · exact EntryKind.noConfusion (hask.symm.trans h)
      · exact Bool.false_ne_true (hworse.symm.trans h)
    rw [hwindow, State.closeWindow_asking ho, if_pos hlate, if_pos hb]
  · have hzone : (s.zone? zone).isSome = true := State.zone_of_own (by rw [ho]; exact (nomatch ·))
    have hb : s.blocked zone = false := (State.blocked_eq_false_iff _ _).2 hfree
    have hwin : exec (.windowEnd zone) s = .next (s.winZone zone) := by
      rw [hwindow, State.closeWindow_asking ho, if_pos hlate, hb, if_neg Bool.false_ne_true]
    obtain ⟨hjob, hseq, hrun⟩ := s.holds_keeps zone
    refine ⟨fun before next rest hj hbefore hne hnext => ?_, fun p job ha hj hall => ?_⟩
    · rw [hwin, State.winZone_next (State.nextZone_eq_some (hjob.trans hj)
        (fun z hz => (State.isHeld_holds hzone z).2 (hbefore z hz)) ?_)]
      rw [← Bool.not_eq_true, State.isHeld_holds hzone, hnext]
      exact not_or.2 ⟨hne, Bool.false_ne_true⟩
    · have ha' : (s.holds zone).seq.active = some p := by rw [hseq, ha]
      rw [hwin, State.winZone_all (State.nextZone_eq_none (hjob.trans hj)
        fun z hz => (State.isHeld_holds hzone z).2 (hall z hz)), State.enterGuard_eq ha',
        exec_guardReleaseTime_atGuard (hrun.trans hr)]
  · rw [hrefresh, State.refreshZone_held ho, hearly, if_neg Bool.false_ne_true]
  · rw [hrefresh, State.refreshZone_held ho, if_pos hlate]

end Sys2Proof.Machine
end


section
/-! PROOFS. Claim frames heard (chapter 8): the entry that an ASK or HOLD makes, and what the unit's own claim does. -/
namespace Sys2Proof.Machine

/-! ### What stays in the list (R124, R125, R132) -/

theorem earliestOf_ne_none (now : Time) {l : List PeerClaim} (h : l ≠ []) : earliestOf now l ≠ none := by
  cases l with
  | nil => exact absurd rfl h
  | cons e rest =>
    rw [earliestOf]
    split
    · exact Option.some_ne_none e
    · split <;> exact Option.some_ne_none _

theorem evicted_hold_ne_none (now : Time) {l : List PeerClaim} {new : PeerClaim} (hl : l ≠ []) (hk : new.kind = .hold) :
    evicted now l new ≠ none := by
  rw [evicted, hk]
  cases worstOf (asksOf l) with
  | none => exact earliestOf_ne_none now hl
  | some w => exact Option.some_ne_none w

theorem mem_enterClaim_of_live {now : Time} {live : PeerClaim → Bool} {l : List PeerClaim} {new old : PeerClaim}
    (hmem : old ∈ l) (hunit : old.unit = new.unit) (hlive : live old = true) : new ∈ (enterClaim now live l new).1 := by
  rw [enterClaim_replaces hmem hunit hlive]
  exact List.mem_map.2 ⟨old, hmem, if_pos hunit⟩

/-- A HOLD always finds its place in the list. -/
theorem mem_enterClaim_of_hold (now : Time) (live : PeerClaim → Bool) (l : List PeerClaim) {new : PeerClaim}
    (hk : new.kind = .hold) : new ∈ (enterClaim now live l new).1 := by
  by_cases hex : ∃ old ∈ l, old.unit = new.unit ∧ live old = true
  · obtain ⟨old, hmem, hunit, hlive⟩ := hex
    exact mem_enterClaim_of_live hmem hunit hlive
  · have hnone : ∀ e ∈ l, e.unit = new.unit → live e = false := fun e he hu =>
      Bool.not_eq_true _ ▸ fun hl => hex ⟨e, he, hu, hl⟩
    rw [enterClaim_adds hnone]
    rcases Nat.lt_or_ge (l.filter live).length 8 with hroom | hfull
    · rw [addEntry_room hroom]
      exact List.mem_append_right _ (List.mem_singleton_self _)
    · have hne : l.filter live ≠ [] := fun h => by rw [h] at hfull; exact absurd hfull (by decide)
      obtain ⟨w, hw⟩ := Option.ne_none_iff_exists'.1 (evicted_hold_ne_none now hne hk)
      rw [addEntry_gives hfull hw]
      exact List.mem_append_right _ (List.mem_singleton_self _)

/-- An ASK that prompts no test leaves every live entry in the list, or replaces it, an ASK, by one of no worse rank. -/
theorem enterClaim_unprompted {now : Time} {live : PeerClaim → Bool} {l : List PeerClaim} {new e : PeerClaim}
    (hn : (l.map (·.unit)).Nodup) (hk : new.kind = .ask) (h : (enterClaim now live l new).2 = false) (he : e ∈ l)
    (hl : live e = true) : e ∈ (enterClaim now live l new).1 ∨
      new ∈ (enterClaim now live l new).1 ∧ e.kind = .ask ∧ e.rank.better new.rank = false := by
  have hnot := mt (enterClaim_prompts now live l new hn hk).2 (by rw [h]; exact Bool.false_ne_true)
  obtain ⟨hreplaced, hcleared, hgiven⟩ := by simpa only [not_or] using hnot
  by_cases hunit : e.unit = new.unit
  · refine .inr ⟨mem_enterClaim_of_live he hunit hl, ?_, ?_⟩
    · cases hek : e.kind with
      | ask => rfl
      | hold => exact absurd ⟨e, he, hunit, hl, .inl hek⟩ hreplaced
    · exact Bool.not_eq_true _ ▸ fun hb => hreplaced ⟨e, he, hunit, hl, .inr hb⟩
  · left
    by_cases hex : ∃ old ∈ l, old.unit = new.unit ∧ live old = true
    · obtain ⟨old, hmem, hu, hold⟩ := hex
      rw [enterClaim_replaces hmem hu hold]
      exact List.mem_map.2 ⟨e, he, if_neg hunit⟩
    · have hall : ∀ x ∈ l, live x = true := fun x hx => by
        by_contra hdead
        exact hcleared ⟨hex, x, hx, Bool.not_eq_true _ ▸ hdead⟩
      have hnone : ∀ x ∈ l, x.unit = new.unit → live x = false := fun x hx hu => absurd ⟨x, hx, hu, hall x hx⟩ hex
      rw [enterClaim_adds hnone, List.filter_eq_self.2 hall]
      rcases Nat.lt_or_ge l.length 8 with hroom | hfull
      · rw [addEntry_room hroom]
        exact List.mem_append_left _ he
      · have hkeeps : evicted now l new = none := by
          cases hw : worstOf (asksOf l) with
          | none => rw [evicted_no_asks ((worstOf_none _).1 hw), hk]
          | some w =>
            refine evicted_ask_worse hw hk (Bool.not_eq_true _ ▸ fun hb => ?_)
            obtain ⟨hwl, hwk⟩ := List.mem_filter.1 (worstOf_mem _ _ hw)
            exact hgiven ⟨hex, hfull, w, hwl, by simpa using hwk, hb⟩
        rw [addEntry_keeps hfull hkeeps]
        exact he

/-! ### The entry made (R123, R124) -/

/-- The zone's list after an ASK or HOLD heard. -/
def State.entered (s : State) (z : Nat) (e : PeerClaim) : State :=
  s.listSet z (enterClaim s.now (fun x => s.reached x.expiry = false) (s.peersOf z) e).1

theorem State.live_eq (s : State) : s.live = fun x => decide (s.reached x.expiry = false) := by
  funext x
  rw [State.live]
  cases s.reached x.expiry <;> rfl

theorem State.zoneInv.enter_eq {s : State} (h : s.zoneInv) (z : Nat) (e : PeerClaim) : s.enter z e = s.entered z e := by
  rw [State.enter, State.entered, ← State.live_eq]
  exact h.mapPeers z fun l => (enterClaim s.now s.live l e).1

theorem clampAsk_bounds (x : Nat) : 0 < clampAsk x ∧ clampAsk x < 2147483648 := by
  unfold clampAsk clamp
  split
  · decide
  · split <;> omega

theorem clampClaimHold_bounds (x : Nat) : 0 < clampClaimHold x ∧ clampClaimHold x < 2147483648 := by
  unfold clampClaimHold clamp
  split
  · decide
  · split <;> omega

/-- A time to come is not reached (R119). -/
theorem State.reached_later (s : State) {n : Nat} (h : 0 < n ∧ n < 2147483648) :
    s.reached (s.now + BitVec.ofNat 32 n) = false := by
  rw [State.reached, ← Bool.not_eq_true, atOrAfter_iff]
  obtain ⟨hlow, hhigh⟩ := h
  bv_omega

theorem State.heldZones_listSet (s : State) (z : Nat) (l : List PeerClaim) : (s.listSet z l).heldZones = s.heldZones := by
  have hown : ∀ c : ZoneClaim, (if c.zone = z then { c with peers := l } else c).own = c.own := by
    intro c; split <;> rfl
  have hzone : ∀ c : ZoneClaim, (if c.zone = z then { c with peers := l } else c).zone = c.zone := by
    intro c; split <;> rfl
  unfold State.heldZones State.listSet
  dsimp only
  rw [List.filter_map, List.map_map]
  simp only [Function.comp_def, hown, hzone]

section
variable {s : State} {z : Nat} {e : PeerClaim} (hzone : (s.zone? z).isSome = true)
include hzone

/-- A HOLD in the list blocks the zone. -/
theorem State.blocked_entered_hold (hk : e.kind = .hold) (hlive : s.reached e.expiry = false) :
    (s.entered z e).blocked z = true := by
  rw [← Bool.not_eq_false, State.entered, State.blocked_listSet hzone]
  intro hfree
  exact EntryKind.noConfusion (hk.symm.trans (hfree e (mem_enterClaim_of_hold _ _ _ hk) hlive).1)

/-- A zone that was blocked and is free after an ASK was prompted. -/
theorem State.entryPrompts_of_freed (hb : s.blocked z = true) (hn : ((s.peersOf z).map (·.unit)).Nodup)
    (hk : e.kind = .ask) (hlive : s.reached e.expiry = false) (hfree : (s.entered z e).blocked z = false) :
    s.entryPrompts z e = true := by
  rw [State.entered, State.blocked_listSet hzone] at hfree
  by_contra hnot
  rw [Bool.not_eq_true, State.entryPrompts, State.live_eq] at hnot
  obtain ⟨x, hx, hxlive, hxblocks⟩ := (s.blocked_iff z).1 hb
  rcases enterClaim_unprompted hn hk hnot hx (decide_eq_true hxlive) with hstays | ⟨hnew, hxk, hworse⟩
  · obtain ⟨hask, hno⟩ := hfree x hstays hxlive
    rcases hxblocks with h | ⟨-, h⟩
    · exact EntryKind.noConfusion (hask.symm.trans h)
    · exact Bool.false_ne_true (hno.symm.trans h)
  · have hxown : x.rank.better s.ownRank = true := by
      rcases hxblocks with h | ⟨-, h⟩
      · exact EntryKind.noConfusion (hxk.symm.trans h)
      · exact h
    refine Bool.false_ne_true ((hfree e hnew hlive).2.symm.trans ?_)
    rcases Rank.eq_or_better _ _ hworse with heq | hbetter
    · exact heq ▸ hxown
    · exact Rank.better_trans _ _ _ hbetter hxown

end

/-! ### What the own claim does (R129, R132 to R134) -/

theorem State.own_entered (s : State) (z : Nat) (e : PeerClaim) (y : Nat) : (s.entered z e).own y = s.own y :=
  State.own_listSet _ _ _ _

section
variable {s : State} {z : Nat} (e : PeerClaim) (b : Bool)

theorem State.askHeard_idle (h : s.own z = .idle) : s.askHeard z e b = s := by rw [State.askHeard, h]

theorem State.askHeard_asking {second : Option Time} {windowEnd : Time} (h : s.own z = .asking second windowEnd) :
    s.askHeard z e b = if e.rank.better s.ownRank then s.loses z else s := by
  rw [State.askHeard, h, ← State.loseWindow_eq]

theorem State.askHeard_waiting (h : s.own z = .waiting) : s.askHeard z e b = if b then s.retest z else s := by
  rw [State.askHeard, h]; rfl

theorem State.askHeard_held {t : Time} (h : s.own z = .held t) : s.askHeard z e b = s.holds z := by
  rw [State.askHeard, h, ← State.holdZone_eq]

theorem State.holdHeard_idle (h : s.own z = .idle) : s.holdHeard z e b = s := by rw [State.holdHeard, h]

theorem State.holdHeard_asking {second : Option Time} {windowEnd : Time} (h : s.own z = .asking second windowEnd) :
    s.holdHeard z e b = (s.loses z).yieldRule z e := by
  rw [State.holdHeard, h, ← State.loseWindow_eq]

/-- In a zone that is blocked no test makes a difference. -/
theorem State.holdHeard_waiting (h : s.own z = .waiting) (hb : s.blocked z = true) :
    s.holdHeard z e b = s.yieldRule z e := by
  have hstays : s.promptRetest z b = s := by
    rw [State.promptRetest, State.retest_stays (.inr hb), ite_self]
  rw [State.holdHeard, h]
  dsimp only
  rw [hstays]

theorem State.holdHeard_held {t : Time} (h : s.own z = .held t) :
    s.holdHeard z e b = if s.ownRank.better e.rank then s.holds z else s.splitLost ⟨z, e.unit⟩ := by
  rw [State.holdHeard, h, ← State.holdZone_eq]

theorem State.yieldRule_asks (h : s.own z = .waiting) (hu : 2 ≤ s.ownUrgency) (hless : e.urgency < s.ownUrgency) :
    s.yieldRule z e = s.offer (.yieldRequest z s.ownUrgency) := if_pos ⟨h, hu, hless⟩

theorem State.yieldRule_quiet (h : s.ownUrgency < 2 ∨ s.ownUrgency ≤ e.urgency) : s.yieldRule z e = s := by
  refine if_neg ?_
  rintro ⟨-, hu, hless⟩
  omega

end

theorem State.own_loses {s : State} {z : Nat} (h : (s.zone? z).isSome = true) : (s.loses z).own z = .waiting := by
  have hown : (s.ownSet z .waiting).own z = .waiting := by
    rw [← State.setOwn_eq, State.own_setOwn, if_pos ⟨rfl, h⟩]
  exact hown

theorem State.ownUrgency_loses (s : State) (z : Nat) : (s.loses z).ownUrgency = s.ownUrgency := by
  show ((s.seq.active.map _).map _).getD 0 = _
  rw [State.ownUrgency]
  cases s.seq.active <;> rfl

/-! ### A split claim lost (R137 to R139) -/

theorem State.offerClash_again {s : State} {p : Program} (ha : s.seq.active = some p) (hc : p.clashOffered = true)
    (z : Nat) : s.offerClash z = s := by
  rw [State.offerClash, ha]
  exact if_pos hc

/-- The first lost split claim of a drive: the flag, the capture and the fault. -/
theorem State.offerClash_first {s : State} {p : Program} (ha : s.seq.active = some p)
    (hc : p.clashOffered = false) (z : Nat) : s.offerClash z =
      { s.withActive { p with clashOffered := true } with
        port := { (s.raise [.fault z .claimClash]).port with
          capture := some (s.port.capture.getD
            { kind := .claimClash, time := s.now, subject := z, handle := p.handle, step := p.stepIndex,
              stepState := some .driving, value := none, raw := none, zones := s.heldZones }) } } := by
  have hfirst : s.offerClash z = ((s.withActive { p with clashOffered := true }).offerCapture
      ((s.withActive { p with clashOffered := true }).clashCapture z)).raise [.fault z .claimClash] := by
    rw [State.offerClash, if_neg, State.mapActive_eq ha]
    · rfl
    · rw [ha]
      exact fun h => Bool.false_ne_true (hc.symm.trans h)
  rw [hfirst, State.offer_raise, State.raise_port_congr (s := s.withActive _) (t := s) _ rfl rfl]
  rfl

theorem State.splitLost_driving {s : State} {p : Program} (ha : s.seq.active = some p) (hd : p.phase = .driving)
    (y : YieldFrom) : s.splitLost y = (s.offerClash y.zone).stopActive .claimClash :=
  if_pos (State.driving_of ha hd)

theorem State.splitLost_notDriving {s : State} {p : Program} (ha : s.seq.active = some p) (hd : p.phase ≠ .driving)
    (y : YieldFrom) : s.splitLost y = s.yieldZones .splitClaim y :=
  if_neg (by rw [State.not_driving_of ha hd]; exact Bool.false_ne_true)

/-! ### The commands -/

theorem exec_ask_heard {s : State} {sender revision : Nat} (h : s.hears sender revision) (zone urgency defer life : Nat) :
    exec (.ask sender revision zone urgency defer life) s =
      .next ((s.heardFrom sender).takeAsk sender zone urgency defer life) :=
  congrArg Host.Outcome.next (State.receive_hears (f := ⟨sender, revision, .ask zone urgency defer life⟩) h rfl)

theorem exec_hold_heard {s : State} {sender revision : Nat} (h : s.hears sender revision) (zone urgency defer life : Nat) :
    exec (.hold sender revision zone urgency defer life) s =
      .next ((s.heardFrom sender).takeHold sender zone urgency defer life) :=
  congrArg Host.Outcome.next (State.receive_hears (f := ⟨sender, revision, .hold zone urgency defer life⟩) h rfl)

/-- Settles O46: a frame discarded, and the entry with the own claim's act in each of its states. -/
theorem askAndHoldAreHeard : Obligations.AskAndHoldAreHeard := by
  intro s sender revision zone urgency defer life hz hh v ask hold
  have hask : exec ask s = .next (v.takeAsk sender zone urgency defer life) := exec_ask_heard hh zone urgency defer life
  have hhold : exec hold s = .next (v.takeHold sender zone urgency defer life) := exec_hold_heard hh zone urgency defer life
  refine ⟨fun hbad => ?_, fun hsome hu hd => ?_⟩
  · have hno : ¬ v.claimFieldsOk zone urgency defer = true := by
      rw [State.claimFieldsOk_iff]
      rintro ⟨hzone, hu, hd⟩
      rcases hbad with h | h | h
      · exact Bool.false_ne_true ((congrArg Option.isSome h).symm.trans hzone)
      · omega
      · omega
    rw [hask, hhold, State.takeAsk, if_neg hno, State.takeHold, if_neg hno]
    exact ⟨rfl, rfl⟩
  · intro entry anAsk aHold entered
    have hv : v.zoneInv := hz
    have hzone : (v.zone? zone).isSome = true := Option.isSome_iff_ne_none.2 hsome
    have hok : v.claimFieldsOk zone urgency defer = true := (State.claimFieldsOk_iff _ _ _ _).2 ⟨hzone, hu, hd⟩
    have hask' : exec ask s = .next ((v.entered zone anAsk).askHeard zone anAsk (v.entryPrompts zone anAsk)) := by
      rw [hask, State.takeAsk, if_pos hok, ← hv.enter_eq]
      rfl
    have hhold' : exec hold s = .next ((v.entered zone aHold).holdHeard zone aHold (v.entryPrompts zone aHold)) := by
      rw [hhold, State.takeHold, if_pos hok, ← hv.enter_eq]
      rfl
    have hasklive : v.reached anAsk.expiry = false := v.reached_later (clampAsk_bounds life)
    have hholdlive : v.reached aHold.expiry = false := v.reached_later (clampClaimHold_bounds life)
    have hown : ∀ e, (v.entered zone e).own zone = s.own zone := fun e => v.own_entered zone e zone
    have hzoneE : ∀ e, ((v.entered zone e).zone? zone).isSome = true := by
      intro e
      rw [State.entered, State.zone_listSet, Option.isSome_map]
      exact hzone
    refine ⟨fun ho => ⟨?_, ?_⟩, fun second windowEnd ho => ⟨fun hb => ?_, fun hb => ?_, fun hq => ?_, fun h2 hless => ?_⟩,
      fun ho => ⟨fun ⟨h2, hless⟩ => ?_, fun hq => ?_, fun hb => ?_, fun hb hn hfree => ?_, fun hn => ?_⟩,
      fun t ho => ⟨?_, fun hb => ?_, fun hb p ha => ⟨fun hd => ⟨_, ?_, State.yieldZones_ends (s := v.entered zone aHold) ha _ _⟩,
        fun hd hc => ?_, fun hd hc => ?_⟩⟩⟩
    · rw [hask', State.askHeard_idle _ _ ((hown _).trans ho)]; rfl
    · rw [hhold', State.holdHeard_idle _ _ ((hown _).trans ho)]; rfl
    · rw [hask', State.askHeard_asking _ _ ((hown _).trans ho)]
      exact congrArg Host.Outcome.next (if_pos hb)
    · rw [hask', State.askHeard_asking _ _ ((hown _).trans ho)]
      exact congrArg Host.Outcome.next (if_neg (by exact fun h => Bool.false_ne_true (hb.symm.trans h)))
    · rw [hhold', State.holdHeard_asking _ _ ((hown _).trans ho), State.yieldRule_quiet]
      · rfl
      · rw [State.ownUrgency_loses]; exact hq
    · rw [hhold', State.holdHeard_asking _ _ ((hown _).trans ho), State.yieldRule_asks _ (State.own_loses (hzoneE _)),
        State.ownUrgency_loses]
      · rfl
      · rw [State.ownUrgency_loses]; exact h2
      · rw [State.ownUrgency_loses]; exact hless
    · rw [hhold', State.holdHeard_waiting _ _ ((hown _).trans ho) (State.blocked_entered_hold hzone rfl hholdlive),
        State.yieldRule_asks _ ((hown _).trans ho) h2 hless]
      rfl
    · rw [hhold', State.holdHeard_waiting _ _ ((hown _).trans ho) (State.blocked_entered_hold hzone rfl hholdlive),
        State.yieldRule_quiet _ hq]
      rfl
    · rw [hask', State.askHeard_waiting _ _ ((hown _).trans ho),
        State.retest_stays (s := v.entered zone anAsk) (.inr hb), ite_self]
      rfl
    · rw [hask', State.askHeard_waiting _ _ ((hown _).trans ho),
        if_pos (State.entryPrompts_of_freed hzone hb hn rfl hasklive hfree), State.retest_asks ((hown _).trans ho) hfree]
      rfl
    · intro gone replaced prompts
      have hprompts : v.entryPrompts zone anAsk = true ↔ prompts := by
        rw [State.entryPrompts, enterClaim_prompts v.now v.live (v.peersOf zone) anAsk hn rfl]
        simp only [State.live, Bool.not_eq_true', Bool.not_eq_false', prompts, replaced, gone, Bool.not_eq_true]
        rfl
      refine ⟨fun hp hfree => ?_, fun hp => ?_⟩
      · rw [hask', State.askHeard_waiting _ _ ((hown _).trans ho), if_pos (hprompts.2 hp),
          State.retest_asks ((hown _).trans ho) hfree]
        rfl
      · rw [hask', State.askHeard_waiting _ _ ((hown _).trans ho), if_neg (mt hprompts.1 hp)]
        rfl
    · rw [hask', State.askHeard_held _ _ ((hown _).trans ho)]; rfl
    · rw [hhold', State.holdHeard_held _ _ ((hown _).trans ho)]
      exact congrArg Host.Outcome.next (if_pos hb)
    all_goals
      have hlost : exec hold s = .next ((v.entered zone aHold).splitLost ⟨zone, sender⟩) := by
        rw [hhold', State.holdHeard_held _ _ ((hown _).trans ho)]
        exact congrArg Host.Outcome.next (if_neg (by exact fun h => Bool.false_ne_true (hb.symm.trans h)))
      rw [hlost]
    · rw [State.splitLost_notDriving (s := v.entered zone aHold) ha hd]
    · rw [State.splitLost_driving (s := v.entered zone aHold) ha hd,
        State.offerClash_again (s := v.entered zone aHold) ha hc, State.stopActive_driving (s := v.entered zone aHold) ha hd]
      rfl
    · rw [State.splitLost_driving (s := v.entered zone aHold) ha hd,
        State.offerClash_first (s := v.entered zone aHold) ha hc,
        State.stopActive_driving (p := { p with clashOffered := true }) (by exact rfl) (by exact hd),
        State.raise_port_congr (s := v.entered zone aHold) (t := s) _ rfl rfl, State.entered, State.heldZones_listSet]
      rfl

end Sys2Proof.Machine
end


section
/-! PROOFS. The yard link (chapter 6): the transmit list, spells of idle medium, attempts and their ends, and probes. -/
namespace Sys2Proof.Machine

/-! ### A frame's slot in the list (R92) -/

theorem insertFrame_new {l : List Frame} {f : Frame} (h : ∀ g ∈ l, g.body.slot ≠ f.body.slot) :
    insertFrame l f = l ++ [f] := by
  refine if_neg ?_
  rw [List.any_eq_true]
  rintro ⟨g, hg, hslot⟩
  exact h g hg (beq_iff_eq.1 hslot)

theorem map_replace_other {l : List Frame} {f : Frame} (h : ∀ x ∈ l, x.body.slot ≠ f.body.slot) :
    (l.map fun g => if g.body.slot == f.body.slot then f else g) = l :=
  (List.map_congr_left fun x hx => if_neg (by rw [beq_iff_eq]; exact h x hx)).trans (List.map_id _)

theorem insertFrame_filled {before after : List Frame} {f g : Frame} (hg : g.body.slot = f.body.slot)
    (h : ∀ x ∈ before ++ after, x.body.slot ≠ f.body.slot) :
    insertFrame (before ++ g :: after) f = before ++ f :: after := by
  have hany : (before ++ g :: after).any (fun x => x.body.slot == f.body.slot) = true :=
    List.any_eq_true.2 ⟨g, List.mem_append_right _ List.mem_cons_self, beq_iff_eq.2 hg⟩
  rw [insertFrame, if_pos hany, modifyWhere, List.map_append, List.map_cons, if_pos (beq_iff_eq.2 hg),
    map_replace_other fun x hx => h x (List.mem_append_left _ hx),
    map_replace_other fun x hx => h x (List.mem_append_right _ hx)]

/-- Settles O50: the slot filled or replaced, the head taken in hand by an idle transmitter, and the discard. -/
theorem offerTakesItsSlot : Obligations.OfferTakesItsSlot := by
  intro s b f
  refine ⟨?_, fun hoff => State.offer_off ?_ b, fun hrun hact => ?_⟩
  · cases b <;> rfl
  · rintro ⟨hrun, hact⟩
    rcases hoff with h | h
    · exact Bool.false_ne_true (h.symm.trans hrun)
    · exact LinkMode.noConfusion (h.symm.trans hact)
  · have hoffer : s.offer b = (s.setLink { s.link with txList := insertFrame s.link.txList f }).takeInHand :=
      if_pos ⟨hrun, hact⟩
    refine ⟨insertFrame s.link.txList f, insertFrame_new (f := f), fun before g after hl hg hother => ?_, fun hbusy => ?_,
      fun hidle head rest hl => ?_⟩
    · rw [hl]
      exact insertFrame_filled hg hother
    · rw [hoffer, State.takeInHand_busy (by exact hbusy)]
      rfl
    · rw [hoffer, State.takeInHand_idle (by exact (State.running_iff.1 hrun).2.1) (by exact hidle),
        State.takeHead_cons (by exact hl)]
      rfl

/-! ### Spells of idle medium (R94, R95) -/

theorem exec_mediumBusy_busy {s : State} (h : s.link.mediumBusy = true) : exec .mediumBusy s = .next s :=
  congrArg Host.Outcome.next (if_pos h)

theorem exec_mediumBusy_idle {s : State} (h : s.link.mediumBusy = false) : exec .mediumBusy s =
    .next { s with link := { s.link with
      mediumBusy := true, rxEcho := s.link.stage.attempting, stage := s.link.stage.turn none } } :=
  congrArg Host.Outcome.next (if_neg fun hb => Bool.false_ne_true (h.symm.trans hb))

theorem exec_mediumIdle_idle {s : State} (h : s.link.mediumBusy = false) : exec .mediumIdle s = .next s :=
  congrArg Host.Outcome.next (if_neg fun hb => Bool.false_ne_true (h.symm.trans hb))

theorem exec_mediumIdle_busy {s : State} (h : s.link.mediumBusy = true) : exec .mediumIdle s =
    .next { s with link := { s.link with mediumBusy := false, stage := s.link.stage.turn (some s.micros) } } :=
  congrArg Host.Outcome.next (if_pos h)

/-- Only a spell being counted changes with the medium. -/
theorem TxStage.turn_other {st : TxStage} (h : ∀ since, st ≠ .deferring since) (since : Option Nat) : st.turn since = st := by
  cases st with
  | deferring t => exact absurd rfl (h t)
  | idle | sending | echoWait => rfl

theorem exec_idleSpellComplete {s : State} (hs : s.supplied = true) (hm : s.ctl.mode = .run) :
    exec .idleSpellComplete s = .next s.beginAttempt := congrArg Host.Outcome.next (if_pos ⟨hs, hm⟩)

theorem State.beginAttempt_none {s : State} (h : s.link.stage = .deferring none) : s.beginAttempt = s := by
  rw [State.beginAttempt, h]
  cases s.link.inHand <;> rfl

theorem State.beginAttempt_some {s : State} {h : InHand} {since : Nat} (hh : s.link.inHand = some h)
    (hst : s.link.stage = .deferring (some since)) : s.beginAttempt =
      if since + neededSpell s.unit h.count ≤ s.micros then
        { s with link := { s.link with stage := .sending (s.micros + Config.sendTimeUs h.frame.length) } }
      else s := by
  rw [State.beginAttempt, hh, hst]
  rfl

/-- Settles O51: the turns of the medium in each stage, and the attempt after the needed spell. -/
theorem spellsOfIdleMedium : Obligations.SpellsOfIdleMedium := by
  refine ⟨fun s => ⟨exec_mediumBusy_busy, exec_mediumIdle_idle, fun since hst => ⟨fun hb => ?_, fun hb => ?_⟩,
    fun hst => ⟨fun hb => ?_, fun hb => ?_⟩⟩, fun s h hs hm hh => ?_⟩
  · rw [exec_mediumBusy_idle hb, hst]; rfl
  · rw [exec_mediumIdle_busy hb, hst]; rfl
  · rw [exec_mediumBusy_idle hb, TxStage.turn_other hst]
  · rw [exec_mediumIdle_busy hb, TxStage.turn_other hst]
  · intro needed
    have hexec := exec_idleSpellComplete hs hm
    refine ⟨fun hc => ?_, fun hst => ?_, fun since hst => ⟨fun hearly => ?_, fun hlate => ?_⟩⟩
    · have hmod := Nat.mod_lt (3 * s.unit + 5 * h.count) (show 0 < 16 by decide)
      dsimp only [needed]
      rw [if_neg (Nat.ne_of_gt hc)]
      omega
    · rw [hexec, State.beginAttempt_none hst]
    · rw [hexec, State.beginAttempt_some hh hst]
      exact congrArg Host.Outcome.next (if_neg (Nat.not_le.2 hearly))
    · rw [hexec, State.beginAttempt_some hh hst]
      exact congrArg Host.Outcome.next (if_pos hlate)

/-! ### A matched echo (R97, R103, R112, R117) -/

theorem TxStage.awaiting_iff (st : TxStage) : st.awaiting = true ↔ ∃ last, st = .echoWait last := by
  cases st <;> simp [TxStage.awaiting]

theorem TxStage.attempting_iff (st : TxStage) :
    st.attempting = true ↔ ∃ last, st = .sending last ∨ st = .echoWait last := by
  cases st <;> simp [TxStage.attempting]

/-- The transmitter with nothing in hand. -/
def State.txFree (s : State) : State := { s with link := { s.link with inHand := none, stage := .idle } }

/-- The head of the list, if there is one, in hand for its first attempt. -/
def State.nextTaken (s : State) : State :=
  match s.link.txList with
  | [] => s
  | f :: rest => s.deferringOn f rest

theorem State.takeInHand_next {s : State} (hm : s.ctl.mode = .run) (hst : s.link.stage = .idle) :
    s.takeInHand = s.nextTaken := by
  rw [State.takeInHand_idle hm hst, State.nextTaken]
  cases hl : s.link.txList with
  | nil => exact State.takeHead_nil hl
  | cons f rest => exact State.takeHead_cons hl

theorem exec_echoMatched {s : State} {h : InHand} (hrun : s.running = true) (hh : s.link.inHand = some h) {last : Nat}
    (hst : s.link.stage = .echoWait last) : exec .echoMatched s = .next (s.frameSent h) := by
  have hsent : s.attemptSent = s.frameSent h := by rw [State.attemptSent, hh]
  rw [← hsent]
  exact congrArg Host.Outcome.next (if_pos ⟨hrun, (TxStage.awaiting_iff _).2 ⟨last, hst⟩⟩)

theorem State.frameSent_claim {s : State} {h : InHand} (hact : s.link.mode = .active)
    (hb : ∀ n r hold items, h.frame.body ≠ .bulletin n r hold items) : s.frameSent h = s.txFree.takeInHand := by
  rw [State.frameSent, hact]
  cases hbody : h.frame.body with
  | bulletin n r hold items => exact absurd hbody (hb n r hold items)
  | ask | hold | drop | yieldRequest => rfl

theorem State.frameSent_bulletin {s : State} {h : InHand} {n : StateNo} {r : Byte} {hold : Nat} {items : List Item}
    (hact : s.link.mode = .active) (hb : h.frame.body = .bulletin n r hold items) :
    s.frameSent h = (s.txFree.publishSent n r).takeInHand := by
  rw [State.frameSent, hact, hb]
  rfl

/-- A probe that was SENT makes the link ACTIVE. -/
def State.restored (s : State) : State :=
  ({ s.txFree with link := { s.txFree.link with mode := .active, probeTimer := none } }).raise [.linkRestored s.unit]

theorem State.frameSent_probe {s : State} {h : InHand} {n : StateNo} {r : Byte} {hold : Nat} {items : List Item}
    (hmut : s.link.mode = .muted) (hb : h.frame.body = .bulletin n r hold items) :
    s.frameSent h = s.restored.probeSent n := by
  rw [State.frameSent, hmut, hb]
  rfl

theorem State.restored_keeps (s : State) : s.restored.pub = s.pub ∧ s.restored.running = s.running ∧
    s.restored.link.mode = .active ∧ s.restored.now = s.now ∧ s.restored.params = s.params ∧
    s.restored.pointList = s.pointList := by
  rw [State.restored, State.raise_eq]
  exact ⟨rfl, rfl, rfl, rfl, rfl, rfl⟩

theorem State.probeSent_same {s : State} {n : StateNo} (h : s.pub.stateNo = some n) :
    s.probeSent n = { s with pub := { s.pub with stage := .due (s.now + BitVec.ofNat 32 s.params.base) } } := if_pos h

/-- A state that has advanced since the probe goes out at once. -/
theorem State.probeSent_advanced {s : State} {n m : StateNo} (h : s.pub.stateNo = some m) (hne : m ≠ n)
    (hrun : s.running = true) (hact : s.link.mode = .active) :
    s.probeSent n = ({ s with pub :=
      { s.pub with repeatNo := 0, interval := s.params.base, stage := .offered m 0 } }).offer
        (.bulletin m 0 (2 * s.params.base + s.params.margin) s.pointList) := by
  have hnumber : s.pub.stateNo.getD 0 = m := by rw [h, Option.getD_some]
  have hrestart : s.probeSent n = (s.setPub { s.pub with repeatNo := 0, interval := s.params.base }).restartSchedule :=
    if_neg fun hn => hne (Option.some.inj (h.symm.trans hn))
  rw [hrestart, State.restartSchedule, if_pos (by exact ⟨hrun, hact⟩), ← hnumber]
  rfl

/-- Settles O52: no whole echo, an ordinary frame, an awaited or overtaken bulletin, and a probe. -/
theorem matchedEchoEndsTheAttempt : Obligations.MatchedEchoEndsTheAttempt := by
  intro s h hrun hh v next
  have hmode := (State.running_iff.1 hrun).2.1
  refine ⟨fun hno => ?_, fun last hst => ⟨fun hact => ⟨fun hb => ?_, fun n r hold items hb => ⟨fun hawaited => ?_,
    fun hovertaken => ?_⟩⟩, fun hmut n r hold items hb => ?_⟩⟩
  · refine congrArg Host.Outcome.next (if_neg ?_)
    rw [TxStage.awaiting_iff]
    rintro ⟨-, last, hst⟩
    exact hno last hst
  · rw [exec_echoMatched hrun hh hst, State.frameSent_claim hact hb, State.takeInHand_next (s := s.txFree) hmode rfl]
    rfl
  · rw [exec_echoMatched hrun hh hst, State.frameSent_bulletin hact hb, State.publishSent, if_pos (by exact hawaited),
      State.takeInHand_next (by exact hmode) (by rfl)]
    rfl
  · rw [exec_echoMatched hrun hh hst, State.frameSent_bulletin hact hb, State.publishSent,
      if_neg (by exact hovertaken), State.takeInHand_next (s := s.txFree) hmode rfl]
    rfl
  · intro u
    obtain ⟨hpub, hrunning, hactive, hnow, hparams, hpoints⟩ := s.restored_keeps
    have hexec : exec .echoMatched s = .next (s.restored.probeSent n) := by
      rw [exec_echoMatched hrun hh hst, State.frameSent_probe hmut hb]
    refine ⟨fun hn => ?_, fun m hm hne => ?_⟩
    · rw [hexec, State.probeSent_same ((congrArg Publisher.stateNo hpub).trans hn), hpub, hnow, hparams]
      rfl
    · rw [hexec, State.probeSent_advanced ((congrArg Publisher.stateNo hpub).trans hm) hne (hrunning.trans hrun) hactive,
        hpub, hparams, hpoints]
      rfl

/-! ### Failed attempts (R96 to R99, R103) -/

theorem State.echoTimedOut_iff (s : State) :
    s.echoTimedOut = true ↔ ∃ last, s.link.stage = .echoWait last ∧ last + 200 ≤ s.micros := by
  rw [State.echoTimedOut]
  cases hst : s.link.stage with
  | echoWait t =>
    dsimp only
    rw [decide_eq_true_iff]
    refine ⟨fun h => ⟨t, rfl, h⟩, ?_⟩
    rintro ⟨last, heq, hlast⟩
    cases heq
    exact hlast
  | idle | deferring | sending => simp

/-- The command of a failed attempt acts once the attempt has failed, and only then. -/
theorem exec_attemptEnd {s : State} (hrun : s.running = true) (lost : Bool) :
    exec (if lost then Instr.echoTimeout else Instr.echoMismatch) s =
      .next (if (if lost then s.echoTimedOut else s.link.stage.attempting) = true then s.attemptFailed (!lost) else s) := by
  cases lost with
  | false =>
    show Host.Outcome.next (if s.running = true ∧ s.link.stage.attempting = true then s.attemptFailed true else s) = _
    simp only [hrun, true_and]
    rfl
  | true =>
    show Host.Outcome.next (if s.running = true ∧ s.echoTimedOut = true then s.attemptFailed false else s) = _
    simp only [hrun, true_and]
    rfl

theorem State.attemptFailed_defers {s : State} {h : InHand} (hh : s.link.inHand = some h) (hc : h.count < 7)
    (collided : Bool) : s.attemptFailed collided = { s with link := { s.link with
      inHand := some { h with count := h.count + 1, allLost := h.allLost && !collided }
      stage := .deferring s.spellNow } } := by
  rw [State.attemptFailed, hh]
  exact if_pos (Nat.succ_lt_succ hc)

theorem State.attemptFailed_drops {s : State} {h : InHand} (hh : s.link.inHand = some h) (hc : 7 ≤ h.count)
    (collided : Bool) : s.attemptFailed collided =
      s.dropFrame { h with count := h.count + 1, allLost := h.allLost && !collided } := by
  rw [State.attemptFailed, hh]
  exact if_neg (Nat.not_lt.2 (Nat.succ_le_succ hc))

theorem State.dropFrame_mutes {s : State} (h : InHand) (hm : s.link.mode = .active ∨ s.params.recovery = .onClear) :
    s.dropFrame h = s.enterMuted h.fault := by
  rw [State.dropFrame]
  cases hmode : s.link.mode with
  | active => rfl
  | muted =>
    have hclear := hm.resolve_left fun hact => LinkMode.noConfusion (hmode.symm.trans hact)
    show s.probeDropped h = _
    rw [State.probeDropped, hclear]

theorem State.dropFrame_probe {s : State} (h : InHand) (hm : s.link.mode = .muted) (hr : s.params.recovery = .auto) :
    s.dropFrame h = { s with link := { s.link with
      inHand := none, stage := .idle, probeTimer := some (s.now + 1000) } } := by
  rw [State.dropFrame, hm]
  show s.probeDropped h = _
  rw [State.probeDropped, hr]
  rfl

/-- Settles O53: no effect before the attempt's end; up to the seventh the frame defers, at the eighth it is dropped. -/
theorem failedAttemptsCountToEight : Obligations.FailedAttemptsCountToEight := by
  intro s h lost hrun hh c ended allLost fault
  have hended : (if lost then s.echoTimedOut else s.link.stage.attempting) = true ↔ ended := by
    cases lost with
    | false => exact TxStage.attempting_iff _
    | true => exact s.echoTimedOut_iff
  have hlost : (h.allLost && !!lost) = allLost := by rw [Bool.not_not]
  have hexec := exec_attemptEnd hrun lost
  refine ⟨fun hno => ?_, fun hend => ⟨fun hc => ?_, fun hc => ⟨fun hm => ?_, fun hm hr => ?_⟩⟩⟩
  · rw [hexec, if_neg (mt hended.1 hno)]
  · rw [hexec, if_pos (hended.2 hend), State.attemptFailed_defers hh hc, hlost]
  · rw [hexec, if_pos (hended.2 hend), State.attemptFailed_drops hh hc, hlost, State.dropFrame_mutes _ hm]
    exact ⟨_, rfl, s.enterMuted_muted fault⟩
  · rw [hexec, if_pos (hended.2 hend), State.attemptFailed_drops hh hc, State.dropFrame_probe _ hm hr]

/-! ### Probes (R101, R102, R117) -/

/-- A probe formed while nothing is in hand is in hand at once. -/
theorem State.startProbe_eq {s : State} (hm : s.ctl.mode = .run) (hl : s.linkInv) (hh : s.link.inHand = none) :
    s.startProbe = s.withProbe := by
  obtain ⟨hidle, hempty, -, -⟩ := hl
  have hstage : s.link.stage = .idle := hidle.1 hh
  have hlist : s.link.txList = [] := hempty hh
  unfold State.startProbe
  dsimp only
  rw [State.takeInHand_idle (by exact hm) (by exact hstage), State.takeHead_cons (rest := []) (by
    show insertFrame s.link.txList _ = _
    rw [hlist]
    rfl)]
  unfold State.withProbe
  rw [State.deferringOn, ← hlist]
  rfl

theorem State.probeExpiry_stays {s : State}
    (h : s.link.probeTimer = none ∨ s.link.inHand ≠ none ∨ s.link.mode = .active) : s.probeExpiry = s := by
  rw [State.probeExpiry]
  cases ht : s.link.probeTimer with
  | none => rfl
  | some t =>
    refine if_neg ?_
    rintro ⟨hm, hh, -⟩
    rcases h with h | h | h
    · exact Option.some_ne_none t (ht.symm.trans h)
    · exact h hh
    · exact LinkMode.noConfusion (h.symm.trans hm)

theorem State.probeExpiry_some {s : State} {t : Time} (ht : s.link.probeTimer = some t) (hm : s.link.mode = .muted)
    (hh : s.link.inHand = none) : s.probeExpiry = if s.reached t = true then s.startProbe else s := by
  rw [State.probeExpiry, ht]
  simp only [hm, hh, true_and]

theorem exec_clearFaultLink_run {s : State} (hs : s.free) (hm : s.ctl.mode = .run) (tag : Byte) :
    exec (.clearFaultLink tag) s = .next ((s.holding tag .clearFaultLink).clearLink.answer ⟨tag, .clearFaultLink⟩ .ok .none) :=
  exec_commandOf_admitted hs tag (r := .clearFaultLink) trivial (by rw [hm]; rfl)

/-- Settles O54: the probe timer and CLEAR_FAULT(link), without a probe and with one. -/
theorem probesAreStarted : Obligations.ProbesAreStarted := by
  refine ⟨fun s hrun hl => ?_, fun s tag hs hm hl => ⟨fun hno => ?_, fun hmut hh => ?_⟩⟩
  · have hexec : exec .probeTimerExpiry s = .next s.probeExpiry := congrArg Host.Outcome.next (if_pos hrun)
    refine ⟨fun hno => ?_, fun t ht hmut hh => ⟨fun hearly => ?_, fun hlate => ?_⟩⟩
    · rw [hexec, State.probeExpiry_stays hno]
    · rw [hexec, State.probeExpiry_some ht hmut hh, hearly, if_neg Bool.false_ne_true]
    · rw [hexec, State.probeExpiry_some ht hmut hh, if_pos hlate,
        State.startProbe_eq (State.running_iff.1 hrun).2.1 hl hh]
  · have hstays : (s.holding tag .clearFaultLink).clearLink = s.holding tag .clearFaultLink := by
      refine if_neg ?_
      rintro ⟨hmut, hh⟩
      rcases hno with h | h
      · exact LinkMode.noConfusion (h.symm.trans hmut)
      · exact h hh
    rw [exec_clearFaultLink_run hs hm, hstays]
    rfl
  · have hstarts : (s.holding tag .clearFaultLink).clearLink =
        (({ s with link := { s.link with dup := false } }).holding tag .clearFaultLink).withProbe :=
      (if_pos ⟨hmut, hh⟩).trans (State.startProbe_eq
        (s := ({ s with link := { s.link with dup := false } }).holding tag .clearFaultLink) hm hl hh)
    rw [exec_clearFaultLink_run hs hm, hstarts]
    rfl

end Sys2Proof.Machine
end


section
/-! PROOFS. What loading makes of an image (R8, R9, R11, R12): the local settings and parameters of a model that loading
installs, and how loading ends otherwise. -/
namespace Sys2Proof.Machine

/-! ### The local settings (R7, R8) -/

/-- The local settings of the model are those of the image. -/
theorem mem_modelOf_locals {d : StoredImage} {q : LocalDef} :
    q ∈ (modelOf d.raw d.records).locals ↔ ∃ l ∈ d.locals, localOf d.records l = q := by
  simp [modelOf]

theorem orDefault_within {lo hi dflt x : Nat} (hx : Allowed lo hi x) (hd : lo ≤ dflt ∧ dflt ≤ hi) :
    lo ≤ orDefault x dflt ∧ orDefault x dflt ≤ hi := by
  unfold orDefault
  split
  next => exact hd
  next hne => exact hx.resolve_left hne

theorem defaultRun_within {k : PointKind} (h : k.isSwitch = true) : 50 ≤ defaultRun k ∧ defaultRun k ≤ 30000 := by
  cases k with
  | breaker | disconnector | earthing => decide
  | voltage | binary => cases h

theorem defaultRecovery_within (k : PointKind) : 0 ≤ defaultRecovery k ∧ defaultRecovery k ≤ 10000 := by
  cases k <;> decide

/-- A stored condition's value by its code. -/
theorem conditionOf_value {c : RawCondition} {v : PointValue} (h : c.value = v.code) : (conditionOf c).value = v := by
  rw [conditionOf, (valueOfCode_eq_some _ _).2 h.symm]
  rfl

theorem StoredImage.InputsApart.symm {d : StoredImage} {l m : RawLocal} (h : d.InputsApart l m) : d.InputsApart m l := by
  intro j k hj hk
  obtain ⟨hswitch, hother⟩ := h k j hk hj
  refine ⟨fun hjs hks => ?_, fun hjo hjk => ?_⟩
  · obtain ⟨hinput, hcoil⟩ := hswitch hks hjs
    exact ⟨hinput.symm, hcoil.symm⟩
  · exact (hother (hjk ▸ hjo) hjk.symm).symm

section
variable {d : StoredImage} (h : ∀ k, 1 ≤ k → k ≤ 11 → d.Passes k)
include h

/-- Every owned point has its local settings, and no other point has (R8). -/
theorem StoredImage.localIds :
    let m := modelOf d.raw d.records
    m.locals.map (·.point) = (m.points.filter fun p => p.owner = m.unit).map (·.id) := by
  intro m
  obtain ⟨hown, hnodup, hnamed⟩ := h 6 (by omega) (by omega)
  obtain ⟨hrising, -⟩ := StoredImage.pointRules h
  have hlocals : (m.locals.map (·.point)).Pairwise (· < ·) :=
    sortBy_rising _ _ (by simpa [localOf, Function.comp_def] using hnodup)
  refine hlocals.eq_of_mem_iff (hrising.sublist (List.filter_sublist.map _)) fun id => ?_
  simp only [List.mem_map, List.mem_filter, decide_eq_true_eq]
  constructor
  · rintro ⟨q, hq, rfl⟩
    obtain ⟨l, hl, rfl⟩ := mem_modelOf_locals.1 hq
    obtain ⟨p, hp, hid, howner⟩ := hnamed l hl
    exact ⟨pointOf p, ⟨mem_modelOf_points.2 ⟨p, hp, rfl⟩, howner⟩, hid⟩
  · rintro ⟨q, ⟨hq, howner⟩, rfl⟩
    obtain ⟨p, hp, rfl⟩ := mem_modelOf_points.1 hq
    obtain ⟨l, hl, hid⟩ := hown p hp howner
    exact ⟨localOf d.records l, mem_modelOf_locals.2 ⟨l, hl, rfl⟩, hid⟩

/-- At most four conditions a direction, each on a point of the table and a value that its kind shows as settled (R7). -/
theorem StoredImage.conditionRules :
    let m := modelOf d.raw d.records
    (∀ q ∈ m.locals, q.closeConditions.length ≤ 4 ∧ q.openConditions.length ≤ 4) ∧
    ∀ q ∈ m.locals, ∀ c ∈ q.closeConditions ++ q.openConditions, ∃ p ∈ m.points, p.id = c.point ∧
      (p.kind.isSwitch = true ∧ (c.value = .opened ∨ c.value = .closed) ∨
        p.kind = .voltage ∧ (c.value = .absent ∨ c.value = .present) ∨
        p.kind = .binary ∧ (c.value = .low ∨ c.value = .high)) := by
  obtain ⟨-, -, -, -, -, -, -, -, -, -, -, hcounts⟩ := h 3 (by omega) (by omega)
  have hsettled := h 9 (by omega) (by omega)
  refine ⟨fun q hq => ?_, fun q hq c hc => ?_⟩
  · obtain ⟨l, hl, rfl⟩ := mem_modelOf_locals.1 hq
    simpa only [localOf, List.length_map] using hcounts l hl
  · obtain ⟨l, hl, rfl⟩ := mem_modelOf_locals.1 hq
    have hc' : c ∈ (l.closeConditions ++ l.openConditions).map conditionOf := by rwa [List.map_append]
    obtain ⟨r, hr, rfl⟩ := List.mem_map.1 hc'
    obtain ⟨p, hp, hid, hvalue⟩ := hsettled l hl r hr
    have hkind := StoredImage.kinds h hp
    refine ⟨pointOf p, mem_modelOf_points.2 ⟨p, hp, rfl⟩, hid, ?_⟩
    rcases hvalue with ⟨hk, hv⟩ | ⟨hk, hv⟩ | ⟨hk, hv⟩
    · exact .inl ⟨hkind.isSwitch.2 hk, hv.imp conditionOf_value conditionOf_value⟩
    · exact .inr (.inl ⟨hkind.voltage.2 hk, hv.imp conditionOf_value conditionOf_value⟩)
    · exact .inr (.inr ⟨hkind.binary.2 hk, hv.imp conditionOf_value conditionOf_value⟩)

theorem StoredImage.kindCode_of_mem {p : RawPoint} (hp : p ∈ d.points) {id : Nat} (hid : p.id = id) :
    d.kindCode id = some p.kind :=
  (kindCode_eq_some d (h 5 (by omega) (by omega)) id p.kind).2 ⟨p, hp, hid, rfl⟩

/-- The kind by which a record's figures are read is that of the point it names. -/
theorem StoredImage.kindOf_local {l : RawLocal} {p : RawPoint} (hp : p ∈ d.points) (hid : p.id = l.point) :
    localOf d.records l =
      { point := l.point, input := l.input, coil := l.coil
        runTime := orDefault l.runTime (defaultRun (pointOf p).kind)
        recovery := orDefault l.recovery (defaultRecovery (pointOf p).kind)
        closeConditions := l.closeConditions.map conditionOf
        openConditions := l.openConditions.map conditionOf } := by
  rw [localOf, kindOf_eq, StoredImage.kindCode_of_mem h hp hid]
  rfl

/-- The settings of one record, by the kind of its point (R8). -/
theorem StoredImage.settingRules {l : RawLocal} (hl : l ∈ d.locals) {p : RawPoint} (hp : p ∈ d.points)
    (hid : p.id = l.point) :
    let q := localOf d.records l
    ((pointOf p).kind.isSwitch = true → 1 ≤ q.input ∧ q.input ≤ 24 ∧ 1 ≤ q.coil ∧ q.coil ≤ 12 ∧
      50 ≤ q.runTime ∧ q.runTime ≤ 30000 ∧ q.recovery ≤ 10000) ∧
    ((pointOf p).kind = .voltage → 1 ≤ q.input ∧ q.input ≤ 4) ∧
    ((pointOf p).kind = .binary → 1 ≤ q.input ∧ q.input ≤ 8) ∧
    ((pointOf p).kind.isSwitch = false → q.coil = 0 ∧ q.closeConditions = [] ∧ q.openConditions = []) := by
  obtain ⟨hpoints, -, -, hallowed, -⟩ := h 4 (by omega) (by omega)
  obtain ⟨hswitch, hother⟩ := hallowed l hl p.kind (StoredImage.kindCode_of_mem h hp hid)
  have hkind := StoredImage.kinds h hp
  rw [StoredImage.kindOf_local h hp hid]
  refine ⟨fun hs => ?_, fun hv => ?_, fun hb => ?_, fun hn => ?_⟩
  · obtain ⟨hin, hin', hcoil, hcoil', hrun, hrec⟩ := hswitch (hkind.isSwitch.1 hs)
    obtain ⟨hlow, hhigh⟩ := orDefault_within hrun (defaultRun_within hs)
    exact ⟨hin, hin', hcoil, hcoil', hlow, hhigh, (orDefault_within hrec (defaultRecovery_within _)).2⟩
  · have hk := hkind.voltage.1 hv
    obtain ⟨hin, hin', -⟩ := hother (.inl hk)
    rw [if_pos hk] at hin'
    exact ⟨hin, hin'⟩
  · have hk := hkind.binary.1 hb
    obtain ⟨hin, hin', -⟩ := hother (.inr hk)
    rw [if_neg (by rw [hk]; decide)] at hin'
    exact ⟨hin, hin'⟩
  · obtain ⟨h1, h5, -⟩ := hpoints p hp
    have hno : ¬ SwitchCode p.kind := fun hs => Bool.false_ne_true (hn.symm.trans (hkind.isSwitch.2 hs))
    have hk : p.kind = 4 ∨ p.kind = 5 := by
      unfold SwitchCode at hno
      omega
    obtain ⟨-, -, hcoil, -, -, hclose, hopen⟩ := hother hk
    exact ⟨hcoil, by rw [hclose]; rfl, by rw [hopen]; rfl⟩

/-- No input and no coil is used by two points of a kind (R8). -/
theorem StoredImage.apartRules {l m : RawLocal} (hl : l ∈ d.locals) (hm : m ∈ d.locals) (hne : m.point ≠ l.point)
    {p q : RawPoint} (hp : p ∈ d.points) (hpid : p.id = l.point) (hq : q ∈ d.points) (hqid : q.id = m.point) :
    ((pointOf p).kind.isSwitch = true → (pointOf q).kind.isSwitch = true → l.input ≠ m.input ∧ l.coil ≠ m.coil) ∧
    ((pointOf p).kind = .voltage → (pointOf q).kind = .voltage → l.input ≠ m.input) ∧
    ((pointOf p).kind = .binary → (pointOf q).kind = .binary → l.input ≠ m.input) := by
  obtain ⟨-, -, -, -, hapart⟩ := h 4 (by omega) (by omega)
  have : Std.Symm d.InputsApart := ⟨fun _ _ => StoredImage.InputsApart.symm⟩
  obtain ⟨hswitch, hother⟩ := hapart.forall hl hm (fun heq => hne (congrArg RawLocal.point heq.symm)) p.kind q.kind
    (StoredImage.kindCode_of_mem h hp hpid) (StoredImage.kindCode_of_mem h hq hqid)
  have hpk := StoredImage.kinds h hp
  have hqk := StoredImage.kinds h hq
  refine ⟨fun hps hqs => hswitch (hpk.isSwitch.1 hps) (hqk.isSwitch.1 hqs), fun hpv hqv => ?_, fun hpb hqb => ?_⟩
  · have hk := hpk.voltage.1 hpv
    exact hother (.inl hk) (hk.trans (hqk.voltage.1 hqv).symm)
  · have hk := hpk.binary.1 hpb
    exact hother (.inr hk) (hk.trans (hqk.binary.1 hqb).symm)

/-- The local settings of every point, and of each two (R8). -/
theorem StoredImage.localRules :
    let m := modelOf d.raw d.records
    ∀ d ∈ m.locals, ∀ p ∈ m.points, p.id = d.point →
      (p.kind.isSwitch = true → 1 ≤ d.input ∧ d.input ≤ 24 ∧ 1 ≤ d.coil ∧ d.coil ≤ 12 ∧
        50 ≤ d.runTime ∧ d.runTime ≤ 30000 ∧ d.recovery ≤ 10000) ∧
      (p.kind = .voltage → 1 ≤ d.input ∧ d.input ≤ 4) ∧ (p.kind = .binary → 1 ≤ d.input ∧ d.input ≤ 8) ∧
      (p.kind.isSwitch = false → d.coil = 0 ∧ d.closeConditions = [] ∧ d.openConditions = []) ∧
      ∀ e ∈ m.locals, ∀ q ∈ m.points, q.id = e.point → e.point ≠ d.point →
        (p.kind.isSwitch = true → q.kind.isSwitch = true → d.input ≠ e.input ∧ d.coil ≠ e.coil) ∧
        (p.kind = .voltage → q.kind = .voltage → d.input ≠ e.input) ∧
        (p.kind = .binary → q.kind = .binary → d.input ≠ e.input) := by
  intro m x hx p hp hid
  obtain ⟨l, hl, rfl⟩ := mem_modelOf_locals.1 hx
  obtain ⟨r, hr, rfl⟩ := mem_modelOf_points.1 hp
  obtain ⟨hswitch, hvoltage, hbinary, hother⟩ := StoredImage.settingRules h hl hr hid
  refine ⟨hswitch, hvoltage, hbinary, hother, fun y hy q hq hqid hne => ?_⟩
  obtain ⟨l', hl', rfl⟩ := mem_modelOf_locals.1 hy
  obtain ⟨r', hr', rfl⟩ := mem_modelOf_points.1 hq
  exact StoredImage.apartRules h hl hl' hne hr hid hr' hqid

/-! ### The parameters (R9) -/

/-- A time of the header is within its range, stated or by default. -/
theorem StoredImage.time_within {i lo hi dflt : Nat}
    (hi' : [(5, 100), (2, 50), (500, 10000), (10, 1000), (20, 500), (200, 2000), (1, 60), (5, 120), (0, 5000)][i]? =
      some (lo, hi)) (hd : lo ≤ dflt ∧ dflt ≤ hi) : lo ≤ d.time i dflt ∧ d.time i dflt ≤ hi := by
  obtain ⟨-, htimes, -⟩ := h 4 (by omega) (by omega)
  obtain ⟨hlt, hrange⟩ := List.getElem?_eq_some_iff.1 hi'
  have hlt' : i < d.times.length := by rw [← htimes.length_eq]; exact hlt
  have hallowed := htimes.get hlt hlt'
  rw [List.get_eq_getElem, List.get_eq_getElem, hrange] at hallowed
  have htime : d.time i dflt = orDefault d.times[i] dflt := by
    rw [StoredImage.time, List.getD_eq_getElem _ _ hlt']
    rfl
  rw [htime]
  exact orDefault_within hallowed hd

/-- The parameters of the model (R9). -/
theorem StoredImage.paramRules :
    let p := (modelOf d.raw d.records).params
    5 ≤ p.filterTime ∧ p.filterTime ≤ 100 ∧ 2 ≤ p.base ∧ p.base ≤ 50 ∧
    500 ≤ p.heartbeat ∧ p.heartbeat ≤ 10000 ∧ 10 ≤ p.margin ∧ p.margin ≤ 1000 ∧
    20 ≤ p.window ∧ p.window ≤ 500 ∧ 200 ≤ p.refresh ∧ p.refresh ≤ 2000 ∧
    1 ≤ p.claimPatience ∧ p.claimPatience ≤ 60 ∧ 5 ≤ p.guardPatience ∧ p.guardPatience ≤ 120 ∧ p.settle ≤ 5000 := by
  intro p
  obtain ⟨hfilter, hfilter'⟩ := StoredImage.time_within h (i := 0) (dflt := 20) rfl (by decide)
  obtain ⟨hbase, hbase'⟩ := StoredImage.time_within h (i := 1) (dflt := 4) rfl (by decide)
  obtain ⟨hheart, hheart'⟩ := StoredImage.time_within h (i := 2) (dflt := 2000) rfl (by decide)
  obtain ⟨hmargin, hmargin'⟩ := StoredImage.time_within h (i := 3) (dflt := 50) rfl (by decide)
  obtain ⟨hwindow, hwindow'⟩ := StoredImage.time_within h (i := 4) (dflt := 60) rfl (by decide)
  obtain ⟨hrefresh, hrefresh'⟩ := StoredImage.time_within h (i := 5) (dflt := 500) rfl (by decide)
  obtain ⟨hclaim, hclaim'⟩ := StoredImage.time_within h (i := 6) (dflt := 10) rfl (by decide)
  obtain ⟨hguard, hguard'⟩ := StoredImage.time_within h (i := 7) (dflt := 30) rfl (by decide)
  obtain ⟨-, hsettle⟩ := StoredImage.time_within h (i := 8) (dflt := 400) rfl (by decide)
  exact ⟨hfilter, hfilter', hbase, hbase', hheart, hheart', hmargin, hmargin', hwindow, hwindow', hrefresh, hrefresh',
    hclaim, hclaim', hguard, hguard', hsettle⟩

end

/-! ### Images whose sections do not read (R182) -/

theorem ImageBytes.getD {store : List Host.Cell} {image : List Byte} (h : ImageBytes store image) {i : Nat} (hi : i < 30) :
    image.getD i 0 = storeRead store i := by
  have hlt : i < image.length := Nat.lt_of_lt_of_le hi h.short
  rw [h.bytes, List.getD_eq_getElem?_getD]
  simp [hlt]

theorem dec16_eq_zero (b c : Byte) : dec16 b c = 0 ↔ b = 0 ∧ c = 0 := by
  unfold dec16
  constructor
  · intro h
    exact ⟨BitVec.eq_of_toNat_eq (by simp; omega), BitVec.eq_of_toNat_eq (by simp; omega)⟩
  · rintro ⟨rfl, rfl⟩
    rfl

/-- Sections that are no image fail check 3, after checks 1 and 2 on the header. -/
theorem checkImage_unread {image : List Byte} (h : readSections (readHeader image) = none) :
    checkImage image = .failed (.configInvalid
      (if numAt image 2 = 0 ∨ 48 < numAt image 2 then 1 else if wordAt image 3 = 0 then 2 else 3)) := by
  have hunit : (!within 1 48 (readHeader image).unit) = true ↔ numAt image 2 = 0 ∨ 48 < numAt image 2 := by
    rw [Bool.not_eq_true', ← Bool.not_eq_true, within_iff]
    show ¬ (1 ≤ numAt image 2 ∧ numAt image 2 ≤ 48) ↔ _
    omega
  unfold checkImage
  dsimp only
  rw [h]
  by_cases h1 : numAt image 2 = 0 ∨ 48 < numAt image 2
  · rw [if_pos (hunit.2 h1), if_pos h1]
  · rw [if_neg (mt hunit.1 h1), if_neg h1]
    by_cases h2 : wordAt image 3 = 0
    · rw [if_pos (by exact h2), if_pos h2]
    · rw [if_neg (by exact h2), if_neg h2, ite_self]

/-- Settles O8: the rules that an installed model obeys, the first failing check or the model spelled, and the sections
that are no image. -/
theorem loadedModelObeysTheLimits : Obligations.LoadedModelObeysTheLimits := by
  refine ⟨fun store m hload => ?_, fun store d hstored => ?_, fun store hcrc hnone => ?_⟩
  · obtain ⟨d, h, rfl⟩ := stored_of_loaded hload
    obtain ⟨hunit, hunit'⟩ := h 1 (by omega) (by omega)
    obtain ⟨hhigh, hhigh', -⟩ := h 3 (by omega) (by omega)
    obtain ⟨hall, hmine, hswitches, hvoltages, hmySwitches, hmyVoltages, hmyBinaries⟩ := StoredImage.counts h
    obtain ⟨hrising, hids, hconductors, hearths, hsources, hapart⟩ := StoredImage.pointRules h
    obtain ⟨hconditions, hsettled⟩ := StoredImage.conditionRules h
    obtain ⟨hzones, hzonesRising, hzoneFields⟩ := StoredImage.zoneRules h
    exact ⟨hunit, hunit', h 2 (by omega) (by omega), hhigh, hhigh', hall, hmine, hswitches, hvoltages, hmySwitches,
      hmyVoltages, hmyBinaries, hrising, hids, hconductors, hearths, hsources, hapart, StoredImage.localIds h, hconditions,
      hzones, hzonesRising, hzoneFields, h 10 (by omega) (by omega), h 11 (by omega) (by omega), hsettled,
      StoredImage.localRules h, StoredImage.paramRules h⟩
  · have hload := loadStore_stored d store hstored
    obtain ⟨hfits, -⟩ := hstored
    exact ⟨fun k h1 h11 hbefore hfail => hload.trans (checkImage_failed hfits h1 h11 hbefore hfail),
      fun hall => ⟨_, hload.trans (checkImage_passed hfits hall), gives_modelOf d hall⟩⟩
  · intro unit
    rcases loadStore_cases store with hbad | ⟨image, heq, hbytes⟩
    · exact absurd hbad hcrc
    · have hunread : readSections (readHeader image) = none := by
        rw [Option.eq_none_iff_forall_ne_some]
        intro x hx
        obtain ⟨d, hd, -⟩ := hbytes.stored hx
        exact hnone d hd
      have hnum : numAt image 2 = unit := by rw [numAt, hbytes.getD (by omega)]
      have hword : wordAt image 3 = 0 ↔ storeRead store 3 = 0 ∧ storeRead store 4 = 0 := by
        rw [wordAt, hbytes.getD (by omega), hbytes.getD (by omega), dec16_eq_zero]
      rw [heq, checkImage_unread hunread, hnum]
      simp only [hword]

end Sys2Proof.Machine
end
